-- ==== Sys2Proof/Word.lean ====
section
/-! DEFINITION. Sys2Proof/Word.lean: the fixed-width values of PPWS (00_scope R6, R8, R10).
Every quantity is unsigned; bit 0 is the least significant bit. -/

namespace Sys2Proof

/-- A byte: 8 bits (00_scope R10). -/
abbrev Byte := BitVec 8

/-- A 16-bit unsigned value: a device address, a byte count, a page size, a payload index (00_scope R6). -/
abbrev Word := BitVec 16

/-- A 17-bit unsigned value: `PLN.currentAddress` and `PLN.nextPageBoundary` (10_state R29). -/
abbrev Word17 := BitVec 17

/-- A count of milliseconds, `DELAY_BITS` = 32 bits (00_scope R6; log 14). -/
abbrev Millis := BitVec 32

end Sys2Proof
end

