-- ==== Sys2Proof/Config.lean ====
section
/-! DEFINITION. Sys2Proof/Config.lean: the implementation parameters of PPWS (00_scope R6) at the
values the spec's own decisions give them (92_eei_decisions D10, D11, D13, D14). -/

namespace Sys2Proof

/-- The two round trips of a segment: the source's step 1 (write-enable) and step 3 (addressed write);
the values of `RESULT.step` (10_state R33). -/
inductive RoundTrip where
  | wren
  | write
deriving DecidableEq, Repr

/-- `FRAME_MAX`: the largest frame handed to the transport in one transfer (00_scope R6).
DESIGN CHOICE (log 13): the spec leaves it open with default 515. Unsafe. -/
def Config.frameMax : Nat := 515

/-- `DATA_MAX`: the largest data part of an addressed-write frame (00_scope R6). -/
def Config.dataMax : Nat := Config.frameMax - 1 - 2

/-- The highest device address, and the highest index of the payload space (20_memory R60). -/
def Config.addressMax : Nat := 65535

/-- `INDEX_BASE`: the number given to the first segment in an error report (00_scope R6).
DESIGN CHOICE (log 16): the spec's own reading of Scenario D. Unsafe. -/
def Config.indexBase : Nat := 1

/-- `RESP_CHECK`: whether a successful transfer's response is accepted (00_scope R6, 41_write_sequencer R165).
DESIGN CHOICE (log 15): the spec's default accepts every response. Unsafe. -/
def Config.respCheck (_step : RoundTrip) (_outBytes _inBytes : List Byte) : Bool := true

end Sys2Proof
end

