-- ==== Sys2Proof/Syntax.lean ====
section
/-! DEFINITION. Sys2Proof/Syntax.lean: the operations of PPWS, one constructor for each row of
spec/opcode_table.json, and the words that stand for them (30_encoding R90 to R100). -/

namespace Sys2Proof

/-- Byte order of a two-byte device address on the wire (10_state R23). -/
inductive Endianness where
  | big
  | little
deriving DecidableEq, Repr

/-- The operations: three host operations, the reserved code, and the five sequencer steps
(30_encoding R90). A sequencer step carries the bytes its frame is made of; a host operation carries
the `cap` operand where it has one. -/
inductive Instr where
  /-- `PLAN cap`: 40_page_planner R122. -/
  | plan (cap : Nat)
  /-- `EXECUTE`: 41_write_sequencer R152. -/
  | execute
  /-- `WRITE_OP cap`: 41_write_sequencer R181. -/
  | writeOp (cap : Nat)
  /-- The reserved host operation code: 30_encoding R103. -/
  | reserved
  /-- `WREN`: the write-enable frame, 41_write_sequencer R154. -/
  | wren (frame : List Byte)
  /-- `WRITE.A1`: opcode, the low address byte, data; 41_write_sequencer R158. -/
  | writeA1 (opcode : Byte) (lowAddress : Byte) (data : List Byte)
  /-- `WRITE.A2B`: opcode, the address sent big-endian, data; 41_write_sequencer R159. -/
  | writeA2b (opcode : Byte) (address : Word) (data : List Byte)
  /-- `WRITE.A2L`: opcode, the address sent little-endian, data; 41_write_sequencer R160. -/
  | writeA2l (opcode : Byte) (address : Word) (data : List Byte)
  /-- `DELAY`: the settle delay in milliseconds; 41_write_sequencer R170. -/
  | delay (ms : Millis)
deriving DecidableEq, Repr

/-- The three address parts an addressed-write frame can have (30_encoding R94 to R97). -/
inductive AddressFormat where
  | a1
  | a2b
  | a2l
deriving DecidableEq, Repr

/-- The frame formats of 30_encoding R92 to R96. Position in the sequence and the configuration tell them
apart, not the bytes (R97, R108). -/
inductive FrameFormat where
  | fWren
  | fWrite (address : AddressFormat)
deriving DecidableEq, Repr

/-- An encoded operation, on the channel it is given on: a host operation code with its `cap` operand
(format `CMD`, R91), a frame for the transport (R92 to R96), a request to the Clock (`T-DELAY`, R100). -/
inductive Encoded where
  | cmd (op : BitVec 2) (cap : Option Nat)
  | frame (format : FrameFormat) (bytes : List Byte)
  | sleep (ms : Millis)
deriving DecidableEq, Repr

end Sys2Proof
end

