-- ==== Sys2Proof/WellFormed.lean ====
section
/-! DEFINITION. Sys2Proof/WellFormed.lean: which operations are well formed (30_encoding R92 to R103). -/

namespace Sys2Proof

/-- An addressed-write frame with `header` bytes before its data carries at least one data byte
(30_encoding R101: a segment has length at least 1) and fits `FRAME_MAX` (20_memory R64). -/
def dataFits (header : Nat) (data : List Byte) : Bool :=
  1 ≤ data.length && header + data.length ≤ Config.frameMax

/-- Well-formed operations. The reserved code is none (R103); a write-enable frame is not empty and fits
`FRAME_MAX` (10_state R25); every opcode byte, address and delay is legal (R104). -/
def Instr.wellFormed : Instr → Bool
  | .plan _ => true
  | .execute => true
  | .writeOp _ => true
  | .reserved => false
  | .wren frame => 1 ≤ frame.length && frame.length ≤ Config.frameMax
  | .writeA1 _ _ data => dataFits 2 data
  | .writeA2b _ _ data => dataFits 3 data
  | .writeA2l _ _ data => dataFits 3 data
  | .delay _ => true

end Sys2Proof
end

