-- ==== Sys2Proof/Decode.lean ====
section
/-! DEFINITION. Sys2Proof/Decode.lean: the byte layouts of 30_encoding R91 to R100, the decoder (total,
refusing by name) and the encoder. -/

namespace Sys2Proof

/-! ## Address bytes (30_encoding R98) -/

/-- `a[15:8]`, the high byte of an address (00_scope R8). -/
def highByte (a : Word) : Byte := BitVec.ofNat 8 (a.toNat / 256)

/-- `a[7:0]`, the low byte of an address (00_scope R8). -/
def lowByte (a : Word) : Byte := BitVec.ofNat 8 (a.toNat % 256)

/-- The address whose high and low bytes are given. -/
def joinBytes (hi lo : Byte) : Word := BitVec.ofNat 16 (hi.toNat * 256 + lo.toNat)

/-- `encAddr` of 30_encoding R98. -/
def encAddr : AddressFormat → Word → List Byte
  | .a1, a => [lowByte a]
  | .a2b, a => [highByte a, lowByte a]
  | .a2l, a => [lowByte a, highByte a]

/-- Number of address bytes of a format (10_state R22). -/
def AddressFormat.width : AddressFormat → Nat
  | .a1 => 1
  | .a2b => 2
  | .a2l => 2

/-! ## Frames (30_encoding R93 to R96) -/

/-- `F-WRITE-A1` (R94): opcode, low address byte, data. -/
def frameA1 (opcode lowAddress : Byte) (data : List Byte) : List Byte :=
  [opcode, lowAddress] ++ data

/-- `F-WRITE-A2B` (R95): opcode, high then low address byte, data. -/
def frameA2b (opcode : Byte) (address : Word) (data : List Byte) : List Byte :=
  [opcode] ++ encAddr .a2b address ++ data

/-- `F-WRITE-A2L` (R96): opcode, low then high address byte, data. -/
def frameA2l (opcode : Byte) (address : Word) (data : List Byte) : List Byte :=
  [opcode] ++ encAddr .a2l address ++ data

/-! ## The decoder -/

/-- Why a word is no operation. -/
inductive DecodeError where
  /-- Host operation code 00 (30_encoding R103). -/
  | reservedOperation
  /-- `PLAN` or `WRITE_OP` without its `cap` operand (R91, R106). -/
  | missingCapacity
  /-- `EXECUTE` with a `cap` operand, which it does not take (R91, R106). -/
  | strayCapacity
  /-- A write-enable frame without its opcode byte (R92). -/
  | emptyFrame
  /-- An addressed-write frame without a full header and one data byte (R101). -/
  | shortFrame
  /-- A frame longer than `FRAME_MAX` (20_memory R64). -/
  | longFrame
deriving DecidableEq, Repr

/-- Host operations by code (30_encoding R91, R103). -/
def decodeCmd (op : BitVec 2) (cap : Option Nat) : Except DecodeError Instr :=
  if op.toNat = 1 then
    match cap with
    | some n => .ok (.plan n)
    | none => .error .missingCapacity
  else if op.toNat = 2 then
    match cap with
    | some _ => .error .strayCapacity
    | none => .ok .execute
  else if op.toNat = 3 then
    match cap with
    | some n => .ok (.writeOp n)
    | none => .error .missingCapacity
  else .error .reservedOperation

/-- Reading back an addressed-write frame of a known format (30_encoding R108). -/
def decodeWrite : AddressFormat → List Byte → Except DecodeError Instr
  | .a1, opcode :: lo :: d :: ds => .ok (.writeA1 opcode lo (d :: ds))
  | .a2b, opcode :: hi :: lo :: d :: ds => .ok (.writeA2b opcode (joinBytes hi lo) (d :: ds))
  | .a2l, opcode :: lo :: hi :: d :: ds => .ok (.writeA2l opcode (joinBytes hi lo) (d :: ds))
  | .a1, _ => .error .shortFrame
  | .a2b, _ => .error .shortFrame
  | .a2l, _ => .error .shortFrame

/-- Reading back a frame of a known format (30_encoding R92, R108). -/
def decodeFrame (format : FrameFormat) (bytes : List Byte) : Except DecodeError Instr :=
  if Config.frameMax < bytes.length then .error .longFrame
  else
    match format with
    | .fWren => if bytes.length = 0 then .error .emptyFrame else .ok (.wren bytes)
    | .fWrite a => decodeWrite a bytes

/-- The decoder: total on every word, refusing by name. -/
def decode : Encoded → Except DecodeError Instr
  | .cmd op cap => decodeCmd op cap
  | .frame format bytes => decodeFrame format bytes
  | .sleep ms => .ok (.delay ms)

/-! ## The encoder -/

/-- The encoder, from the same tables (30_encoding R91 to R100). -/
def encode : Instr → Encoded
  | .plan cap => .cmd 1 (some cap)
  | .execute => .cmd 2 none
  | .writeOp cap => .cmd 3 (some cap)
  | .reserved => .cmd 0 none
  | .wren frame => .frame .fWren frame
  | .writeA1 opcode lo data => .frame (.fWrite .a1) (frameA1 opcode lo data)
  | .writeA2b opcode a data => .frame (.fWrite .a2b) (frameA2b opcode a data)
  | .writeA2l opcode a data => .frame (.fWrite .a2l) (frameA2l opcode a data)
  | .delay ms => .sleep ms

/-! ## The words of spec/opcode_table.json -/

/-- Byte `k` of an instruction numbered as the table numbers it. -/
def tableByte (w k : Nat) : Byte := BitVec.ofNat 8 (w / 256 ^ k)

/-- The tagged word a table word stands for. The table's frame rows are told apart by position and
configuration (30_encoding R97, R108), which a bare word does not hold, so the number of bits decides here
(log 20): up to 8 bits a host operation code with a zero `cap` operand, else a one-byte write-enable frame;
16 bits the header of `F-WRITE-A1`; 24 bits that of `F-WRITE-A2B`; each header is followed by one data byte of
zeros; 32 bits a delay. -/
def tableEncoded (nbits w : Nat) : Option Encoded :=
  if nbits ≤ 8 then
    if w < 4 then some (.cmd (BitVec.ofNat 2 w) (if w = 1 ∨ w = 3 then some 0 else none))
    else if w < 256 then some (.frame .fWren [tableByte w 0])
    else none
  else if nbits = 16 then some (.frame (.fWrite .a1) [tableByte w 0, tableByte w 1, 0])
  else if nbits = 24 then
    some (.frame (.fWrite .a2b) [tableByte w 0, tableByte w 1, tableByte w 2, 0])
  else if nbits = 32 then some (.sleep (BitVec.ofNat 32 w))
  else none

/-- The instruction the decoder reads from a word of spec/opcode_table.json. -/
def decodeTableWord (nbits w : Nat) : Option Instr :=
  match tableEncoded nbits w with
  | none => none
  | some e =>
    match decode e with
    | .ok i => some i
    | .error _ => none

end Sys2Proof
end

