-- ==== Sys2Proof/Machine/State.lean ====
section
/-! DEFINITION. Sys2Proof/Machine/State.lean: the state of PPWS as plain data (10_state R20 to R39), the
reasons a step can stop, and the state after reset. -/

namespace Sys2Proof.Machine

/-! ## The seven groups of 10_state R20 -/

/-- The configuration registers (10_state R21 to R26). Each holds a value always; whether the host has written
it since reset, without which no operation reads it (R39), is in `Written` (log 2). -/
structure Cfg where
  /-- `CFG.pageSize` (10_state R21). -/
  pageSize : Word
  /-- `CFG.addressByteWidth`, legal values 1 and 2 (10_state R22). -/
  addressByteWidth : BitVec 2
  /-- `CFG.endianness` (10_state R23). -/
  endianness : Endianness
  /-- `CFG.interPageDelayMs` (10_state R24). -/
  interPageDelayMs : Millis
  /-- `CFG.wrenFrame` (10_state R25). -/
  wrenFrame : List Byte
  /-- `CFG.writeOpcode` (10_state R26). -/
  writeOpcode : Byte
deriving DecidableEq, Repr

/-- The request registers (10_state R27; log 2). -/
structure Req where
  /-- `REQ.startOffset`. -/
  startOffset : Word
  /-- `REQ.totalLength`. -/
  totalLength : Word
deriving DecidableEq, Repr

/-- A byte memory: cells at strictly rising addresses. An address that is not listed holds no value
(10_state R28; log 17). -/
abbrev Memory := List Host.Cell

/-- The payload space (10_state R28): its size `|PAY|` and its bytes; a byte that is not listed holds no value. -/
structure Payload where
  size : Nat
  cells : Memory
deriving DecidableEq, Repr

/-- Which operand registers the host has written since reset. One that it has not "holds no value" (10_state
R39): an operation that reads it is refused (41_write_sequencer R151, 70_reset_and_hazards R242). -/
structure Written where
  pageSize : Bool
  addressByteWidth : Bool
  endianness : Bool
  interPageDelayMs : Bool
  wrenFrame : Bool
  writeOpcode : Bool
  startOffset : Bool
  totalLength : Bool
  payload : Bool
deriving DecidableEq, Repr

/-- The planner's working registers (10_state R29). -/
structure Pln where
  currentAddress : Word17
  remaining : Word
  sourceOffset : Word
  nextPageBoundary : Word17
  availableOnPage : Word
  segmentLength : Word
deriving DecidableEq, Repr

/-- A PageSegment (00_scope R15, 10_state R31). -/
structure PageSegment where
  address : Word
  length : Word
  sourceOffset : Word
deriving DecidableEq, Repr

/-- The plan buffer (10_state R31, R32). `seg` lists the filled slots; `PLB.count` is its length (log 21). -/
structure Plb where
  seg : List PageSegment
  cap : Nat
  valid : Bool
deriving DecidableEq, Repr

/-- `SEQ.phase` (10_state R30). -/
inductive Phase where
  | idle
  | wren
  | write
  | delay
deriving DecidableEq, Repr

/-- The sequencer position, the counterpart of a program counter (10_state R30). -/
structure Position where
  index : Word
  phase : Phase
deriving DecidableEq, Repr

/-- What the Transport reports with a fault: opaque, copied unchanged (60_exceptions R204; log 25). -/
abbrev Detail := Nat

/-- The four error kinds with the information each records (60_exceptions R201 to R204). -/
inductive WriteError where
  | configError
  | capacityError
  | protocolError (segment : Word) (step : RoundTrip)
  | transportError (segment : Word) (step : RoundTrip) (detail : Detail)
deriving DecidableEq, Repr

/-- The result register (10_state R33): the fields of an error exist only in state `error` (log 28). -/
inductive Result where
  | none
  | ok
  | error (e : WriteError)
deriving DecidableEq, Repr

/-! ## Inputs and observation (the model's own) -/

/-- One answer of the Transport to a transfer (60_exceptions R222). -/
inductive Response where
  | success (inBytes : List Byte)
  | failure (inBytes : List Byte)
  | fault (detail : Detail)
deriving DecidableEq, Repr

/-- The outcome of a transfer as a trace shows it (00_scope R11, R12). -/
inductive Status where
  | success
  | failure
  | fault (detail : Detail)
deriving DecidableEq, Repr

/-- An event of a trace (00_scope R12): one transfer with its outcome, or one sleep. -/
inductive Event where
  | transfer (outBytes : List Byte) (status : Status)
  | sleep (ms : Millis)
deriving DecidableEq, Repr

/-- A register load by the host (30_encoding R106, statements `CFG`, `REQ`, `PAY`). -/
inductive HostLoad where
  | pageSize (v : Word)
  | addressByteWidth (v : BitVec 2)
  | endianness (v : Endianness)
  | interPageDelayMs (v : Millis)
  | wrenFrame (v : List Byte)
  | writeOpcode (v : Byte)
  | startOffset (v : Word)
  | totalLength (v : Word)
  | payload (bytes : List Byte)
deriving DecidableEq, Repr

/-- A move of the host between operations: a register load, the start of an operation by its code with its
`cap` operand (30_encoding R91, R106), or reset, which may be applied only while the block is idle
(70_reset_and_hazards R243). -/
inductive HostMove where
  | load (l : HostLoad)
  | reset
  | start (op : BitVec 2) (cap : Option Nat)
deriving DecidableEq, Repr

/-! ## The state -/

/-- The state of PPWS: the seven groups of 10_state R20, which operand registers are written (R39), the operands
`FRM` and `TMR` (R35, R36), and the model's own inputs (`host`, `transport`, `wakes`) and observation (`trace`). -/
structure State where
  cfg : Cfg
  req : Req
  pay : Payload
  written : Written
  pln : Pln
  plb : Plb
  seq : Position
  result : Result
  /-- `FRM`: the frame being handed to the transport (10_state R35). -/
  frm : List Byte
  /-- `TMR`: the delay being requested (10_state R36). -/
  tmr : Millis
  /-- Host moves not yet made (log 1). -/
  host : List HostMove
  /-- Answers the Transport will give, in order; when none is left it does not answer (log 4). -/
  transport : List Response
  /-- How many sleeps the Clock will still end (log 6). -/
  wakes : Nat
  /-- The completed events, oldest first (log 7). -/
  trace : List Event
deriving DecidableEq, Repr

/-! ## Reasons to stop -/

/-- Faults of the model. Only a running sequence that stands past its plan raises one, which no reachable state
shows (41_write_sequencer R151 is checked before the first step). Safe (log 22). -/
inductive Fault where
  /-- The slot `SEQ.index` is not filled: "slots from `PLB.count` on hold no value" (10_state R31). Raised by the
  operand fetch of WRITE. Safe. -/
  | planSlotEmpty
deriving DecidableEq, Repr

/-- Refusals: the spec gives the situation no meaning (00_scope R11). All are safe: no claim about a refused
operation can be proved. -/
inductive Refusal where
  /-- An instruction the model gives no meaning yet; raised by `exec` only. Safe. -/
  | notModelled (mnemonic : String)
  /-- An operand register has not been written since reset (70_reset_and_hazards R242, 93_implementation_defined
  U4). Raised by PLAN, EXECUTE, WRITE_OP, and by the operand fetch of WRITE for a payload byte. Safe. -/
  | unwrittenOperand
  /-- EXECUTE without a valid plan (41_write_sequencer R151). Safe. -/
  | noPlan
  /-- A payload index out of range, or a payload that is not of length totalLength (41_write_sequencer R151,
  R162, R181). Raised by EXECUTE, WRITE_OP, the operand fetch of WRITE, and a host load longer than the index
  reaches. Safe. -/
  | payloadBounds
  /-- A frame longer than `FRAME_MAX` (41_write_sequencer R151, R163; 20_memory R64). Safe. -/
  | frameTooLong
  /-- The request overflows the address space (40_page_planner R138). Raised by PLAN and WRITE_OP. Safe. -/
  | rangeOverflow
  /-- Host operation code 00 (30_encoding R103). Raised by the host's start of it. Safe. -/
  | reservedOperation
  /-- A host command whose `cap` operand is missing or stray (30_encoding R106). Raised by the host's start
  of an operation. Safe. -/
  | badCommand
deriving DecidableEq, Repr

/-! ## Reset -/

/-- The state after reset (10_state R39, 70_reset_and_hazards R241): idle, no plan, no result, no operand
register written. The values that the unwritten operand registers show are zero, `big` or empty: DESIGN CHOICE
(log 2); no operation reads one. Registers the spec leaves unspecified and never reads before writing (`PLN`, `FRM`,
`TMR`), `PLB.cap`, and the model's own fields start at zero or empty: DESIGN CHOICE (log 3). -/
def State.reset : State where
  cfg := ⟨0, 0, .big, 0, [], 0⟩
  req := ⟨0, 0⟩
  pay := ⟨0, []⟩
  written := ⟨false, false, false, false, false, false, false, false, false⟩
  pln := ⟨0, 0, 0, 0, 0, 0⟩
  plb := ⟨[], 0, false⟩
  seq := ⟨0, .idle⟩
  result := .none
  frm := []
  tmr := 0
  host := []
  transport := []
  wakes := 0
  trace := []

end Sys2Proof.Machine
end

