-- ==== Sys2Proof/Machine/Ops.lean ====
section
/-! DEFINITION. Sys2Proof/Machine/Ops.lean: the named operations over the state: byte memory, register
updates, host loads, raising an error, and the two requests to the collaborators. -/

namespace Sys2Proof.Machine

/-- The outcome of a step of this machine. -/
abbrev StepOutcome := Host.Outcome State Fault Refusal

/-! ## Byte memory (10_state R28, 20_memory R62) -/

/-- What an address that is not listed reads as: no value (10_state R28; log 17). -/
def Memory.unlisted : Option Byte := none

/-- The byte at an address. -/
def Memory.read : Memory → Nat → Option Byte
  | [], _ => Memory.unlisted
  | (k, b) :: m, a => if k = a then some b else Memory.read m a

/-- Store one byte, keeping addresses strictly rising. -/
def Memory.write : Memory → Nat → Byte → Memory
  | [], a, b => [(a, b)]
  | (k, c) :: m, a, b =>
    if a < k then (a, b) :: (k, c) :: m
    else if a = k then (a, b) :: m
    else (k, c) :: Memory.write m a b

/-- Store a byte sequence at increasing addresses. -/
def Memory.writeBytes : Memory → Nat → List Byte → Memory
  | m, _, [] => m
  | m, a, b :: bs => Memory.writeBytes (Memory.write m a b) (a + 1) bs

/-- `n` bytes in increasing address order (20_memory R62); none when one of them holds no value. -/
def Memory.readBytes (m : Memory) : Nat → Nat → Option (List Byte)
  | _, 0 => some []
  | a, n + 1 =>
    match Memory.read m a, Memory.readBytes m (a + 1) n with
    | some b, some bs => some (b :: bs)
    | _, _ => none

/-- The canonical form: strictly rising addresses. No listed byte equals what an unlisted address reads as,
since that is no byte. -/
def Memory.wf : Memory → Bool
  | [] => true
  | [_] => true
  | (a, _) :: (k, c) :: m => decide (a < k) && Memory.wf ((k, c) :: m)

/-! ## One update for each field -/

def State.setCfg (s : State) (v : Cfg) : State := { s with cfg := v }
def State.setReq (s : State) (v : Req) : State := { s with req := v }
def State.setPay (s : State) (v : Payload) : State := { s with pay := v }
def State.setWritten (s : State) (v : Written) : State := { s with written := v }
def State.setPln (s : State) (v : Pln) : State := { s with pln := v }
def State.setPlb (s : State) (v : Plb) : State := { s with plb := v }
def State.setSeq (s : State) (v : Position) : State := { s with seq := v }
def State.setResult (s : State) (v : Result) : State := { s with result := v }
def State.setFrm (s : State) (v : List Byte) : State := { s with frm := v }
def State.setTmr (s : State) (v : Millis) : State := { s with tmr := v }
def State.setHost (s : State) (v : List HostMove) : State := { s with host := v }
def State.setTransport (s : State) (v : List Response) : State := { s with transport := v }
def State.setWakes (s : State) (v : Nat) : State := { s with wakes := v }
def State.setTrace (s : State) (v : List Event) : State := { s with trace := v }

/-- Record one completed event (00_scope R12). -/
def State.emit (s : State) (e : Event) : State := s.setTrace (s.trace ++ [e])

/-- Mark the plan valid or not (10_state R32). -/
def State.setValid (s : State) (v : Bool) : State := s.setPlb { s.plb with valid := v }

/-! ## Host loads (10_state R41, 30_encoding R106) -/

/-- The effect of a register load on the state: the register, and that it is written. `PAY` is loaded whole: its
size and all its bytes. -/
def applyLoad : HostLoad → State → State
  | .pageSize v, s =>
    (s.setCfg { s.cfg with pageSize := v }).setWritten { s.written with pageSize := true }
  | .addressByteWidth v, s =>
    (s.setCfg { s.cfg with addressByteWidth := v }).setWritten
      { s.written with addressByteWidth := true }
  | .endianness v, s =>
    (s.setCfg { s.cfg with endianness := v }).setWritten { s.written with endianness := true }
  | .interPageDelayMs v, s =>
    (s.setCfg { s.cfg with interPageDelayMs := v }).setWritten
      { s.written with interPageDelayMs := true }
  | .wrenFrame v, s =>
    (s.setCfg { s.cfg with wrenFrame := v }).setWritten { s.written with wrenFrame := true }
  | .writeOpcode v, s =>
    (s.setCfg { s.cfg with writeOpcode := v }).setWritten { s.written with writeOpcode := true }
  | .startOffset v, s =>
    (s.setReq { s.req with startOffset := v }).setWritten { s.written with startOffset := true }
  | .totalLength v, s =>
    (s.setReq { s.req with totalLength := v }).setWritten { s.written with totalLength := true }
  | .payload bytes, s =>
    (s.setPay ⟨bytes.length, Memory.writeBytes [] 0 bytes⟩).setWritten
      { s.written with payload := true }

/-- A host load. A payload that the 16-bit index of 10_state R28 cannot reach is refused (log 17). -/
def hostLoad (l : HostLoad) (s : State) : StepOutcome :=
  match l with
  | .payload bytes =>
    if Config.addressMax + 1 < bytes.length then .refused .payloadBounds
    else .next (applyLoad (.payload bytes) s)
  | l => .next (applyLoad l s)

/-! ## Reset while idle (70_reset_and_hazards R243) -/

/-- The block after a reset: every register as `State.reset` has it, but `PLB.cap`, which reset does not change
(10_state R39). What stands outside the block stays: the host's further moves, the collaborators' answers, and
the trace that was seen (log 26). -/
def hostReset (s : State) : State where
  cfg := State.reset.cfg
  req := State.reset.req
  pay := State.reset.pay
  written := State.reset.written
  pln := State.reset.pln
  plb := { State.reset.plb with cap := s.plb.cap }
  seq := State.reset.seq
  result := State.reset.result
  frm := State.reset.frm
  tmr := State.reset.tmr
  host := s.host
  transport := s.transport
  wakes := s.wakes
  trace := s.trace

/-! ## Raising an error (60_exceptions R208) -/

/-- Whether the error is that of a transfer; only then is `SEQ` written (R208 item 4). -/
def WriteError.ofTransfer : WriteError → Bool
  | .configError => false
  | .capacityError => false
  | .protocolError _ _ => true
  | .transportError _ _ _ => true

/-- `raise <Error>(info)`: `RESULT` takes the error, the phase returns to IDLE with `SEQ.index` kept (not
written for ConfigError and CapacityError), `PLB.valid` is 0, and nothing else changes (R208). There is no
handler, no saved state and no return (R210, R217). -/
def raise (e : WriteError) (s : State) : State :=
  ((s.setResult (.error e)).setValid false).setSeq
    (if e.ofTransfer then { s.seq with phase := .idle } else s.seq)

/-! ## One round trip through the Transport (60_exceptions R222, 41_write_sequencer R164) -/

/-- How a trace shows an answer (00_scope R12). -/
def Response.status : Response → Status
  | .success _ => .success
  | .failure _ => .failure
  | .fault d => .fault d

/-- The ordinal of the segment at a slot (60_exceptions R205): `SEQ.index + 1`. -/
def ordinal (index : Word) : Word := index + BitVec.ofNat 16 Config.indexBase

/-- `check` of 41_write_sequencer R152 and the table of R164: the error a transfer's answer gives, if any. -/
def checkResponse (respCheck : RoundTrip → List Byte → List Byte → Bool) (index : Word)
    (step : RoundTrip) (out : List Byte) : Response → Option WriteError
  | .success inBytes =>
    if respCheck step out inBytes then none else some (.protocolError (ordinal index) step)
  | .failure _ => some (.protocolError (ordinal index) step)
  | .fault d => some (.transportError (ordinal index) step d)

/-- The state once the Transport has answered a transfer of `out`: the event is complete, and the sequencer
goes on to phase `next` or raises (41_write_sequencer R152, R164). -/
def afterAnswer (respCheck : RoundTrip → List Byte → List Byte → Bool) (out : List Byte)
    (step : RoundTrip) (next : Phase) (r : Response) (s : State) : State :=
  match checkResponse respCheck s.seq.index step out r with
  | none => (s.emit (.transfer out r.status)).setSeq { s.seq with phase := next }
  | some e => raise e (s.emit (.transfer out r.status))

/-- `Transfer(out)` for any `RESP_CHECK`. A frame longer than `FRAME_MAX` is never handed over (20_memory R64).
The frame is handed over in `FRM`; while the Transport gives no answer the state is kept (60_exceptions R215,
R227; log 5). -/
def transferWith (respCheck : RoundTrip → List Byte → List Byte → Bool) (out : List Byte)
    (step : RoundTrip) (next : Phase) (s : State) : StepOutcome :=
  if Config.frameMax < out.length then .refused .frameTooLong
  else
    match s.transport with
    | [] => .next (s.setFrm out)
    | r :: rest => .next (afterAnswer respCheck out step next r ((s.setFrm out).setTransport rest))

/-- `Transfer(out)` with the `RESP_CHECK` of this hardware. -/
def transfer (out : List Byte) (step : RoundTrip) (next : Phase) (s : State) : StepOutcome :=
  transferWith Config.respCheck out step next s

/-! ## One request to the Clock (60_exceptions R224, 41_write_sequencer R170, R173) -/

/-- The advance after the DELAY of slot `k`: to `(k+1, WREN)` while a slot is left, else to IDLE with
`RESULT = ok` (41_write_sequencer R152, R173, R177). -/
def advance (s : State) : State :=
  if s.seq.index.toNat + 1 < s.plb.seg.length then s.setSeq ⟨s.seq.index + 1, .wren⟩
  else (s.setSeq ⟨s.seq.index + 1, .idle⟩).setResult .ok

/-- `TMR <- ms; Sleep(TMR)` and the advance. While the Clock does not end the sleep the state is kept
(60_exceptions R215; log 5). -/
def sleep (ms : Millis) (s : State) : StepOutcome :=
  match s.wakes with
  | 0 => .next (s.setTmr ms)
  | n + 1 => .next (advance (((s.setTmr ms).setWakes n).emit (.sleep ms)))

end Sys2Proof.Machine
end

