-- ==== Sys2Proof/Machine/Flags.lean ====
section
/-! DEFINITION. Sys2Proof/Machine/Flags.lean: status predicates and codes. The block has no condition codes
and no arithmetic flags (10_state R34). -/

namespace Sys2Proof.Machine

/-- `BUSY` (10_state R34): the sequencer is not IDLE. A PLAN is one step here, so it is never seen running
(log 8). -/
def State.busy (s : State) : Bool := decide (s.seq.phase ≠ .idle)

/-- `ConfigOK` (60_exceptions R201). -/
def Cfg.configOK (c : Cfg) : Bool :=
  decide (c.pageSize ≠ 0) &&
  (decide (c.addressByteWidth = 1) || decide (c.addressByteWidth = 2)) &&
  decide (c.wrenFrame ≠ [])

/-- Code of `RESULT.state` (60_exceptions R206). -/
def Result.stateCode : Result → Nat
  | .none => 0
  | .ok => 1
  | .error _ => 2

/-- Code of `RESULT.kind` (60_exceptions R206). -/
def WriteError.kindCode : WriteError → Nat
  | .configError => 1
  | .capacityError => 2
  | .protocolError _ _ => 3
  | .transportError _ _ _ => 4

/-- Code of `RESULT.step` (60_exceptions R206): the source's step numbers. -/
def roundTripCode : RoundTrip → Nat
  | .wren => 1
  | .write => 3

/-- `RESULT.segment`, where the error has one (10_state R33). -/
def WriteError.segment : WriteError → Option Word
  | .configError => none
  | .capacityError => none
  | .protocolError g _ => some g
  | .transportError g _ _ => some g

/-- `RESULT.step`, where the error has one (10_state R33). -/
def WriteError.step : WriteError → Option RoundTrip
  | .configError => none
  | .capacityError => none
  | .protocolError _ t => some t
  | .transportError _ t _ => some t

/-- Code of `SEQ.phase` (10_state R30). -/
def Phase.code : Phase → Nat
  | .idle => 0
  | .wren => 1
  | .write => 2
  | .delay => 3

end Sys2Proof.Machine
end

