-- ==== Sys2Proof/Machine/Operands.lean ====
section
/-! DEFINITION. Sys2Proof/Machine/Operands.lean: what the operations read: payload runs, plan slots, the
address format, the premises of EXECUTE and WRITE_OP. -/

namespace Sys2Proof.Machine

/-! ## Payload and plan buffer -/

/-- `MemRead(addr, n)` (20_memory R62): defined only when `addr + n ≤ |PAY|`. -/
def Payload.memRead (pay : Payload) (addr n : Nat) : Option (List Byte) :=
  if addr + n ≤ pay.size then Memory.readBytes pay.cells addr n else none

/-- The payload bytes of a segment: `MemRead(seg.sourceOffset, seg.length)` (30_encoding R99). -/
def Payload.segmentData (pay : Payload) (g : PageSegment) : Option (List Byte) :=
  pay.memRead g.sourceOffset.toNat g.length.toNat

/-- `PLB.count` (10_state R31): the number of filled slots (log 21). -/
def Plb.count (b : Plb) : Nat := b.seg.length

/-- `PlanRead(k)` (00_scope R11): slot `k`, if it is filled. -/
def Plb.planRead (b : Plb) (k : Nat) : Option PageSegment := b.seg[k]?

/-! ## Configuration -/

/-- The address format of the WRITE steps; none for an illegal width (30_encoding R97). `CFG.endianness` is read
at width 2 only. -/
def Cfg.writeFormat (c : Cfg) : Option AddressFormat :=
  if c.addressByteWidth = 1 then some .a1
  else if c.addressByteWidth = 2 then
    match c.endianness with
    | .big => some .a2b
    | .little => some .a2l
  else none

/-- Every configuration register an EXECUTE reads has been written since reset; `CFG.endianness` counts only at
width 2 (70_reset_and_hazards R242). -/
def Cfg.written (c : Cfg) (w : Written) : Bool :=
  w.pageSize && w.addressByteWidth && (decide (c.addressByteWidth ≠ 2) || w.endianness) &&
  w.interPageDelayMs && w.wrenFrame && w.writeOpcode

/-! ## Premises (41_write_sequencer R151, R181) -/

/-- The segment reads inside the payload: `sourceOffset + length ≤ |PAY|` (R151). -/
def Payload.covers (pay : Payload) (g : PageSegment) : Bool :=
  decide (g.sourceOffset.toNat + g.length.toNat ≤ pay.size)

/-- Every frame fits `FRAME_MAX`: the write-enable frame and the addressed-write frame of every segment
(R151, R163). -/
def Cfg.framesFit (c : Cfg) (segs : List PageSegment) : Bool :=
  decide (c.wrenFrame.length ≤ Config.frameMax) &&
  segs.all fun g => decide (1 + c.addressByteWidth.toNat + g.length.toNat ≤ Config.frameMax)

/-- The first broken premise of EXECUTE, in the order of R151's table (log 12). -/
def executeRefusal (s : State) : Option Refusal :=
  if !(s.cfg.written s.written && s.written.payload) then some .unwrittenOperand
  else if !s.plb.valid then some .noPlan
  else if !(s.plb.seg.all s.pay.covers) then some .payloadBounds
  else if !(s.plb.seg.all fun g => (s.pay.segmentData g).isSome) then some .unwrittenOperand
  else if s.cfg.configOK && !(s.cfg.framesFit s.plb.seg) then some .frameTooLong
  else none

/-- The range premise is broken: `L > 0` and `S + L − 1 > 65535` (40_page_planner R138). -/
def rangeOverflow (L S : Nat) : Bool := decide (0 < L) && decide (Config.addressMax < S + L - 1)

/-- The operands of PLAN: page size, total length, start offset (40_page_planner R120), when all three have been
written since reset (70_reset_and_hazards R242). -/
def planOperands (s : State) : Option (Nat × Nat × Nat) :=
  if s.written.pageSize && s.written.totalLength && s.written.startOffset then
    some (s.cfg.pageSize.toNat, s.req.totalLength.toNat, s.req.startOffset.toNat)
  else none

end Sys2Proof.Machine
end

