-- ==== Sys2Proof/Machine/Planner.lean ====
section
/-! DEFINITION. Sys2Proof/Machine/Planner.lean: the Page Planner, operation PLAN and its iteration PLAN.STEP
(40_page_planner R120 to R140). -/

namespace Sys2Proof.Machine

/-- The planner's working values. They are natural numbers (00_scope R9, 40_page_planner R136) and are stored
into the `PLN` registers at the end. `segs` is the plan written so far. -/
structure PlanWork where
  currentAddress : Nat
  remaining : Nat
  sourceOffset : Nat
  nextPageBoundary : Nat
  availableOnPage : Nat
  segmentLength : Nat
  segs : List PageSegment
deriving DecidableEq, Repr

/-- How planning ends: with the whole plan, or with more segments than the buffer holds
(40_page_planner R131). -/
inductive PlanEnd where
  | planned (w : PlanWork)
  | overfull (w : PlanWork)
deriving DecidableEq, Repr

/-- The first three lines of PLAN.STEP (40_page_planner R123): the temporaries. -/
def PlanWork.measure (p : Nat) (w : PlanWork) : PlanWork :=
  let boundary := (w.currentAddress / p + 1) * p
  let available := boundary - w.currentAddress
  { w with
    nextPageBoundary := boundary
    availableOnPage := available
    segmentLength := min w.remaining available }

/-- The rest of PLAN.STEP (40_page_planner R123): store the segment with the values before the updates, then
the three updates. -/
def PlanWork.place (w : PlanWork) : PlanWork :=
  { w with
    segs := w.segs ++ [⟨BitVec.ofNat 16 w.currentAddress, BitVec.ofNat 16 w.segmentLength,
      BitVec.ofNat 16 w.sourceOffset⟩]
    sourceOffset := w.sourceOffset + w.segmentLength
    remaining := w.remaining - w.segmentLength
    currentAddress := w.currentAddress + w.segmentLength }

/-- `PLAN.STEP(p, cap)` (40_page_planner R123): the capacity test stands between the two parts. -/
def planStep (p cap : Nat) (w : PlanWork) : PlanEnd :=
  let m := w.measure p
  if m.segs.length = cap then .overfull m else .planned m.place

/-- The loop of PLAN (40_page_planner R122). `fuel` bounds the iterations; R124 shows that the total length
is enough. -/
def planLoop (p cap : Nat) : Nat → PlanWork → PlanEnd
  | 0, w => .planned w
  | fuel + 1, w =>
    if w.remaining = 0 then .planned w
    else
      match planStep p cap w with
      | .planned w' => planLoop p cap fuel w'
      | .overfull w' => .overfull w'

/-- The working values at the start of PLAN (40_page_planner R122); the temporaries are not yet written. -/
def planStart (L S : Nat) (old : Pln) : PlanWork where
  currentAddress := S
  remaining := L
  sourceOffset := 0
  nextPageBoundary := old.nextPageBoundary.toNat
  availableOnPage := old.availableOnPage.toNat
  segmentLength := old.segmentLength.toNat
  segs := []

/-- Planning a request (40_page_planner R122). -/
def planRun (p L S cap : Nat) (old : Pln) : PlanEnd := planLoop p cap L (planStart L S old)

/-- The segments of the whole plan, whatever the capacity: `L` slots always suffice (R124). -/
def planSegments (p L S : Nat) : List PageSegment :=
  match planRun p L S L ⟨0, 0, 0, 0, 0, 0⟩ with
  | .planned w => w.segs
  | .overfull w => w.segs

/-- The start of PLAN: `PLB.valid <- 0`, `PLB.count <- 0`, in a buffer of `cap` slots
(40_page_planner R122; log 24). -/
def openPlan (cap : Nat) (s : State) : State := s.setPlb ⟨[], cap, false⟩

/-- The working values stored into `PLN` (10_state R29) and the written slots into `PLB`. -/
def storePlan (w : PlanWork) (s : State) : State :=
  (s.setPln
    { currentAddress := BitVec.ofNat 17 w.currentAddress
      remaining := BitVec.ofNat 16 w.remaining
      sourceOffset := BitVec.ofNat 16 w.sourceOffset
      nextPageBoundary := BitVec.ofNat 17 w.nextPageBoundary
      availableOnPage := BitVec.ofNat 16 w.availableOnPage
      segmentLength := BitVec.ofNat 16 w.segmentLength }).setPlb { s.plb with seg := w.segs }

/-- `PLAN cap` (40_page_planner R122, R131, R138, R139; 70_reset_and_hazards R242). -/
def execPlan (cap : Nat) (s : State) : StepOutcome :=
  match planOperands s with
  | none => .refused .unwrittenOperand
  | some (p, L, S) =>
    if rangeOverflow L S then .refused .rangeOverflow
    else if p = 0 then .next (raise .configError (openPlan cap s))
    else
      match planRun p L S cap s.pln with
      | .planned w => .next (((storePlan w (openPlan cap s)).setValid true).setResult .ok)
      | .overfull w => .next (raise .capacityError (storePlan w (openPlan cap s)))

end Sys2Proof.Machine
end

