-- ==== Sys2Proof/Machine/HostOps.lean ====
section
/-! DEFINITION. Sys2Proof/Machine/HostOps.lean: the host operations EXECUTE and WRITE_OP, and the reserved
code (41_write_sequencer R150 to R153, R181 to R183; 30_encoding R103). -/

namespace Sys2Proof.Machine

/-- The start of the loop of 41_write_sequencer R152 on the plan in `PLB`: the plan is consumed
(`PLB.valid <- 0`, R183); an empty plan ends the operation at once (R153), else the sequencer stands at
`(0, WREN)`. -/
def beginSequence (s : State) : State :=
  if s.plb.seg.length = 0 then ((s.setValid false).setSeq ⟨0, .idle⟩).setResult .ok
  else (s.setValid false).setSeq ⟨0, .wren⟩

/-- `EXECUTE` (41_write_sequencer R151, R152). The steps of the loop are the machine's next steps. -/
def execExecute (s : State) : StepOutcome :=
  match executeRefusal s with
  | some r => .refused r
  | none =>
    if s.cfg.configOK then .next (beginSequence s)
    else .next (raise .configError s)

/-- The premises of WRITE_OP in the order of 41_write_sequencer R181, given the operands of its PLAN (log 12):
`|PAY| = L`, the range, and, for a valid configuration, every frame of the plan. -/
def writeOpRefusal (p L S : Nat) (s : State) : Option Refusal :=
  if s.pay.size ≠ L then some .payloadBounds
  else if (s.pay.memRead 0 L).isNone then some .unwrittenOperand
  else if rangeOverflow L S then some .rangeOverflow
  else if s.cfg.configOK && !(s.cfg.framesFit (planSegments p L S)) then some .frameTooLong
  else none

/-- `WRITE_OP cap` (41_write_sequencer R181, R182): configuration, then planning, then the sequence.
`RESULT` is written once, when the operation ends (10_state R33; log 10). -/
def execWriteOp (cap : Nat) (s : State) : StepOutcome :=
  match planOperands s with
  | none => .refused .unwrittenOperand
  | some (p, L, S) =>
    if !(s.cfg.written s.written && s.written.payload) then .refused .unwrittenOperand
    else
      match writeOpRefusal p L S s with
      | some r => .refused r
      | none =>
        if s.cfg.configOK then
          match planRun p L S cap s.pln with
          | .planned w => .next (beginSequence (storePlan w (openPlan cap s)))
          | .overfull w => .next (raise .capacityError (storePlan w (openPlan cap s)))
        else .next (raise .configError s)

/-- The reserved host operation code selects no operation and is refused (30_encoding R103). -/
def execReserved (_s : State) : StepOutcome := .refused .reservedOperation

end Sys2Proof.Machine
end

