-- ==== Sys2Proof/Machine/Sequencer.lean ====
section
/-! DEFINITION. Sys2Proof/Machine/Sequencer.lean: the steps of the Write Sequencer: WREN, the three WRITE
steps, DELAY (41_write_sequencer R154 to R173). -/

namespace Sys2Proof.Machine

/-- `WREN` (41_write_sequencer R154): one transfer of the write-enable frame. -/
def execWren (frame : List Byte) (s : State) : StepOutcome := transfer frame .wren .write s

/-- `WRITE.A1` (41_write_sequencer R157, R158). -/
def execWriteA1 (opcode lowAddress : Byte) (data : List Byte) (s : State) : StepOutcome :=
  transfer (frameA1 opcode lowAddress data) .write .delay s

/-- `WRITE.A2B` (41_write_sequencer R157, R159). -/
def execWriteA2b (opcode : Byte) (address : Word) (data : List Byte) (s : State) : StepOutcome :=
  transfer (frameA2b opcode address data) .write .delay s

/-- `WRITE.A2L` (41_write_sequencer R157, R160). -/
def execWriteA2l (opcode : Byte) (address : Word) (data : List Byte) (s : State) : StepOutcome :=
  transfer (frameA2l opcode address data) .write .delay s

/-- `DELAY` (41_write_sequencer R170, R173): one sleep, then the advance. -/
def execDelay (ms : Millis) (s : State) : StepOutcome := sleep ms s

end Sys2Proof.Machine
end

