-- ==== Sys2Proof/Machine/Dispatch.lean ====
section
/-! DEFINITION. Sys2Proof/Machine/Dispatch.lean: one arm for each instruction. -/

namespace Sys2Proof.Machine

def exec (i : Instr) (s : State) : Host.Outcome State Fault Refusal :=
  match i with
  | .plan cap => Sys2Proof.Machine.execPlan cap s
  | .execute => Sys2Proof.Machine.execExecute s
  | .writeOp cap => Sys2Proof.Machine.execWriteOp cap s
  | .reserved => Sys2Proof.Machine.execReserved s
  | .wren frame => Sys2Proof.Machine.execWren frame s
  | .writeA1 opcode lowAddress data => Sys2Proof.Machine.execWriteA1 opcode lowAddress data s
  | .writeA2b opcode address data => Sys2Proof.Machine.execWriteA2b opcode address data s
  | .writeA2l opcode address data => Sys2Proof.Machine.execWriteA2l opcode address data s
  | .delay ms => Sys2Proof.Machine.execDelay ms s

end Sys2Proof.Machine
end

