-- ==== Sys2Proof/Machine/Fetch.lean ====
section
/-! DEFINITION. Sys2Proof/Machine/Fetch.lean: which instruction runs next. While a sequence runs, position
and configuration select it (30_encoding R90, R97); while idle, the host does. -/

namespace Sys2Proof.Machine

/-- What the step at a sequencer position is. Of these a run shows only `run`: the others belong to states in
which a premise of EXECUTE is broken (41_write_sequencer R151; log 22). -/
inductive Fetched where
  /-- The instruction runs. -/
  | run (i : Instr)
  /-- The width selects no format: ConfigError before any frame is built (30_encoding R97). -/
  | configError
  /-- The read has no meaning (41_write_sequencer R162, 93_implementation_defined U2, U4). -/
  | refuse (r : Refusal)
  /-- The slot holds no value (10_state R31). -/
  | stop (f : Fault)
deriving DecidableEq, Repr

/-- The WREN step: its operand is `CFG.wrenFrame` (41_write_sequencer R154). -/
def fetchWren (s : State) : Fetched := .run (.wren s.cfg.wrenFrame)

/-- The addressed write of a segment in a given format (30_encoding R93 to R97, 41_write_sequencer R152). -/
def writeInstr (format : AddressFormat) (opcode : Byte) (address : Word) (data : List Byte) : Instr :=
  match format with
  | .a1 => .writeA1 opcode (lowByte address) data
  | .a2b => .writeA2b opcode address data
  | .a2l => .writeA2l opcode address data

/-- Why the payload bytes of a segment cannot be read: its indexes are out of range (41_write_sequencer R162), or
a byte holds no value (10_state R28, 93_implementation_defined U4). -/
def Payload.readRefusal (pay : Payload) (g : PageSegment) : Refusal :=
  if pay.covers g then .unwrittenOperand else .payloadBounds

/-- The WRITE step: its operands are the current slot, the payload and the configuration
(41_write_sequencer R157). -/
def fetchWrite (s : State) : Fetched :=
  match s.plb.planRead s.seq.index.toNat with
  | none => .stop .planSlotEmpty
  | some g =>
    match s.cfg.writeFormat with
    | none => .configError
    | some format =>
      match s.pay.segmentData g with
      | none => .refuse (s.pay.readRefusal g)
      | some data => .run (writeInstr format s.cfg.writeOpcode g.address data)

/-- The DELAY step: its operand is `CFG.interPageDelayMs` (41_write_sequencer R170). -/
def fetchDelay (s : State) : Fetched := .run (.delay s.cfg.interPageDelayMs)

/-- Why a host command does not decode, as a refusal (30_encoding R103, R106). -/
def commandRefusal : DecodeError → Refusal
  | .reservedOperation => .reservedOperation
  | .missingCapacity => .badCommand
  | .strayCapacity => .badCommand
  | .emptyFrame => .badCommand
  | .shortFrame => .badCommand
  | .longFrame => .badCommand

/-! ## Placing an instruction where the next step fetches it -/

/-- Place an addressed write: the WRITE phase at slot 0 of a plan with one segment whose payload is `data`. -/
def placeWrite (width : BitVec 2) (endianness : Endianness) (opcode : Byte) (address : Word)
    (data : List Byte) (s : State) : State :=
  ((((s.setCfg { s.cfg with
        addressByteWidth := width
        endianness := endianness
        writeOpcode := opcode }).setPlb
      { s.plb with seg := [⟨address, BitVec.ofNat 16 data.length, 0⟩] }).setPay
      ⟨data.length, Memory.writeBytes [] 0 data⟩).setSeq ⟨0, .write⟩)

/-- Place an operation so that the next step runs it: a host operation as the host's next move, a sequencer
step as the step at which the sequencer stands (logs 1 and 20). -/
def placeInstr (i : Instr) (s : State) : State :=
  match i with
  | .plan cap => (s.setHost (.start 1 (some cap) :: s.host)).setSeq { s.seq with phase := .idle }
  | .execute => (s.setHost (.start 2 none :: s.host)).setSeq { s.seq with phase := .idle }
  | .writeOp cap => (s.setHost (.start 3 (some cap) :: s.host)).setSeq { s.seq with phase := .idle }
  | .reserved => (s.setHost (.start 0 none :: s.host)).setSeq { s.seq with phase := .idle }
  | .wren frame =>
    (s.setCfg { s.cfg with wrenFrame := frame }).setSeq { s.seq with phase := .wren }
  | .writeA1 opcode lo data => placeWrite 1 .big opcode (joinBytes 0 lo) data s
  | .writeA2b opcode a data => placeWrite 2 .big opcode a data s
  | .writeA2l opcode a data => placeWrite 2 .little opcode a data s
  | .delay ms =>
    (s.setCfg { s.cfg with interPageDelayMs := ms }).setSeq { s.seq with phase := .delay }

end Sys2Proof.Machine
end

