-- ==== Sys2Proof/Machine/Step.lean ====
section
/-! DEFINITION. Sys2Proof/Machine/Step.lean: one step of the machine, and how an instruction is placed where
the step fetches it. -/

namespace Sys2Proof.Machine

/-- Run what a sequencer position fetched. A ConfigError met there ends the operation like any raised error: the
phase returns to IDLE and the index is kept (60_exceptions R208; log 22). -/
def runFetched (f : Fetched) (s : State) : Host.Outcome State Fault Refusal :=
  match f with
  | .run i => exec i s
  | .configError => .next (raise .configError (s.setSeq { s.seq with phase := .idle }))
  | .refuse r => .refused r
  | .stop e => .fault e

/-- A move of the host, already taken from the queue: a register load, a reset, or the start of an operation,
whose command is decoded and run (30_encoding R91). -/
def hostMove (m : HostMove) (s : State) : Host.Outcome State Fault Refusal :=
  match m with
  | .load l => hostLoad l s
  | .reset => .next (hostReset s)
  | .start op cap =>
    match decode (.cmd op cap) with
    | .ok i => exec i s
    | .error e => .refused (commandRefusal e)

/-- One step. In phase IDLE the host makes its next move, and without one the block waits
(70_reset_and_hazards R241); in any other phase the sequencer runs the step it stands at
(41_write_sequencer R152). No host move is made while a sequence runs (10_state R41). -/
def step (s : State) : Host.Outcome State Fault Refusal :=
  match s.seq.phase with
  | .idle =>
    match s.host with
    | [] => .next s
    | m :: rest => hostMove m (s.setHost rest)
  | .wren => runFetched (fetchWren s) s
  | .write => runFetched (fetchWrite s) s
  | .delay => runFetched (fetchDelay s) s

/-- `s` with the instruction a table word stands for placed where `step` fetches its next instruction
(logs 1 and 20). The reserved code is placed as the host's next move. A word that stands for nothing changes
nothing. -/
def State.withFetchWord (s : State) (nbits w : Nat) : State :=
  match tableEncoded nbits w with
  | some (.cmd op cap) =>
    (s.setHost (.start op cap :: s.host)).setSeq { s.seq with phase := .idle }
  | some e =>
    match decode e with
    | .ok i => placeInstr i s
    | .error _ => s
  | none => s

end Sys2Proof.Machine
end

