-- ==== Sys2Proof/Safety.lean ====
section
/-! DEFINITION. Sys2Proof/Safety.lean: the terms claims are stated in: the closed form of a plan, the premises of
the host operations, the trace of a sequence and what it asks of the device, and the invariant of the machine. -/

namespace Sys2Proof.Machine

/-! ## Runs -/

/-- `k` steps, stopping at the first fault or refusal: the host's `Host.Core.run` of this machine, on its own state
type. -/
def runSteps : Nat → State → Host.Outcome State Fault Refusal
  | 0, s => .next s
  | k + 1, s =>
    match step s with
    | .next t => runSteps k t
    | .fault f => .fault f
    | .refused r => .refused r

/-! ## The plan in closed form (40_page_planner R133, R134) -/

/-- `n`, the number of segments: the pages the range touches (R133). -/
def pageCount (p L S : Nat) : Nat := if L = 0 then 0 else (S + L - 1) / p - S / p + 1

/-- `seg[i]`, the segment of ordinal `i` (R134). -/
def closedSegment (p L S i : Nat) : PageSegment where
  address := BitVec.ofNat 16 (if i = 1 then S else (S / p + i - 1) * p)
  length := BitVec.ofNat 16
    (if i = 1 then min L (p - S % p)
     else if i < pageCount p L S then p
     else S + L - (S / p + pageCount p L S - 1) * p)
  sourceOffset := BitVec.ofNat 16 (if i = 1 then 0 else (S / p + i - 1) * p - S)

/-- The whole plan (R134). -/
def closedPlan (p L S : Nat) : List PageSegment :=
  (List.range (pageCount p L S)).map fun k => closedSegment p L S (k + 1)

/-! ## Premises -/

/-- Every configuration register an operation reads has been written since reset, so that it "holds a value";
`CFG.endianness` counts at width 2 only (10_state R39, 70_reset_and_hazards R242). -/
structure CfgHoldsValues (w : Written) (c : Cfg) : Prop where
  pageSize : w.pageSize = true
  addressByteWidth : w.addressByteWidth = true
  endianness : c.addressByteWidth = 2 → w.endianness = true
  interPageDelayMs : w.interPageDelayMs = true
  wrenFrame : w.wrenFrame = true
  writeOpcode : w.writeOpcode = true

/-- A configuration that `ConfigOK` accepts (60_exceptions R201). -/
structure GoodConfig (c : Cfg) : Prop where
  pageSize : c.pageSize ≠ 0
  addressByteWidth : c.addressByteWidth = 1 ∨ c.addressByteWidth = 2
  wrenFrame : c.wrenFrame ≠ []

/-- The frames of a list of segments fit `FRAME_MAX` (41_write_sequencer R151). -/
structure FramesFit (c : Cfg) (segs : List PageSegment) : Prop where
  wren : c.wrenFrame.length ≤ Config.frameMax
  write : ∀ g ∈ segs, 1 + c.addressByteWidth.toNat + g.length.toNat ≤ Config.frameMax

/-- The premises of EXECUTE (41_write_sequencer R151). -/
structure ExecutePremises (s : State) : Prop where
  cfgWritten : CfgHoldsValues s.written s.cfg
  payWritten : s.written.payload = true
  valid : s.plb.valid = true
  bounds : ∀ g ∈ s.plb.seg, g.sourceOffset.toNat + g.length.toNat ≤ s.pay.size
  bytes : ∀ g ∈ s.plb.seg, ∀ a, g.sourceOffset.toNat ≤ a →
    a < g.sourceOffset.toNat + g.length.toNat → Memory.read s.pay.cells a ≠ none
  frames : GoodConfig s.cfg → FramesFit s.cfg s.plb.seg

/-- The premises of WRITE_OP for the request `(p, L, S)` (41_write_sequencer R181). -/
structure WriteOpPremises (s : State) (p L S : Nat) : Prop where
  operands : planOperands s = some (p, L, S)
  cfgWritten : CfgHoldsValues s.written s.cfg
  payWritten : s.written.payload = true
  payLength : s.pay.size = L
  bytes : ∀ a, a < L → Memory.read s.pay.cells a ≠ none
  range : L = 0 ∨ S + L - 1 ≤ 65535
  frames : GoodConfig s.cfg → FramesFit s.cfg (closedPlan p L S)

/-! ## Frames and traces (41_write_sequencer R152, R178, R179) -/

/-- The addressed-write frame of a segment: `[CFG.writeOpcode] ++ encAddr(..) ++ MemRead(..)` (R152). -/
def segmentFrame (s : State) (g : PageSegment) : Option (List Byte) :=
  match s.cfg.writeFormat, s.pay.segmentData g with
  | some format, some data => some ([s.cfg.writeOpcode] ++ encAddr format g.address ++ data)
  | _, _ => none

/-- The round trip an instruction makes and the frame it sends. -/
def sends : Instr → Option (RoundTrip × List Byte)
  | .wren frame => some (.wren, frame)
  | .writeA1 opcode lo data => some (.write, frameA1 opcode lo data)
  | .writeA2b opcode a data => some (.write, frameA2b opcode a data)
  | .writeA2l opcode a data => some (.write, frameA2l opcode a data)
  | .plan _ => none
  | .execute => none
  | .writeOp _ => none
  | .reserved => none
  | .delay _ => none

/-- The events of a list of segments when every transfer succeeds (R178). -/
def successTrace (s : State) : List PageSegment → List Event
  | [] => []
  | g :: gs =>
    .transfer s.cfg.wrenFrame .success ::
    .transfer ((segmentFrame s g).getD []) .success ::
    .sleep s.cfg.interPageDelayMs :: successTrace s gs

/-- Whether an answer is `success`. -/
def Response.succeeded : Response → Bool
  | .success _ => true
  | .failure _ => false
  | .fault _ => false

/-- The error an answer that is no success gives (R164). -/
def failureError (segment : Word) (step : RoundTrip) : Response → WriteError
  | .success _ => .protocolError segment step
  | .failure _ => .protocolError segment step
  | .fault d => .transportError segment step d

/-- The frames of the successful transfers of a trace, in order. -/
def sentFrames : List Event → List (List Byte)
  | [] => []
  | .transfer out .success :: es => out :: sentFrames es
  | .transfer _ (.failure) :: es => sentFrames es
  | .transfer _ (.fault _) :: es => sentFrames es
  | .sleep _ :: es => sentFrames es

/-- The addressed-write frames among the transfers of one EXECUTE: every second one (30_encoding R108). -/
def writeFrames : List (List Byte) → List (List Byte)
  | _ :: f :: fs => f :: writeFrames fs
  | _ => []

/-- Bytes at increasing addresses. -/
def cellsAt : Nat → List Byte → List Host.Cell
  | _, [] => []
  | a, b :: bs => (a, b) :: cellsAt (a + 1) bs

/-- What one addressed-write frame asks of the device (R179): its data at its address. -/
def requestedCells (format : AddressFormat) (frame : List Byte) : List Host.Cell :=
  match decodeWrite format frame with
  | .ok (.writeA1 _ lo data) => cellsAt lo.toNat data
  | .ok (.writeA2b _ a data) => cellsAt a.toNat data
  | .ok (.writeA2l _ a data) => cellsAt a.toNat data
  | _ => []

/-- What the trace of one EXECUTE asks of the device, in order (R179). -/
def deviceRequests (format : AddressFormat) (trace : List Event) : List Host.Cell :=
  (writeFrames (sentFrames trace)).flatMap (requestedCells format)

/-! ## The invariant -/

/-- The payload: its bytes are exactly those at `0 .. |PAY| − 1`, and the 16-bit index reaches them
(10_state R28). -/
def Payload.wf (pay : Payload) : Prop :=
  pay.size ≤ Config.addressMax + 1 ∧ pay.cells.map Prod.fst = List.range pay.size

/-- Segments that follow each other from a device address and a payload index, none empty, none past the
address space (10_state R40). -/
def chainFrom : Nat → Nat → List PageSegment → Prop
  | _, _, [] => True
  | a, o, g :: gs =>
    g.address.toNat = a ∧ g.sourceOffset.toNat = o ∧ 1 ≤ g.length.toNat ∧
    a + g.length.toNat ≤ Config.addressMax + 1 ∧
    chainFrom (a + g.length.toNat) (o + g.length.toNat) gs

/-- The shape of whatever PLAN leaves in the plan buffer (10_state R40). -/
def planShape (segs : List PageSegment) : Prop :=
  match segs with
  | [] => True
  | g :: gs => chainFrom g.address.toNat 0 (g :: gs)

/-- What holds while a sequence runs: the slot is filled, the plan is consumed, the configuration is good,
and every frame can be built (10_state R30, 41_write_sequencer R151, R183). -/
structure Running (s : State) : Prop where
  slot : s.seq.index.toNat < s.plb.count
  consumed : s.plb.valid = false
  cfgWritten : CfgHoldsValues s.written s.cfg
  cfgGood : GoodConfig s.cfg
  data : ∀ g ∈ s.plb.seg, s.pay.segmentData g ≠ none
  frames : FramesFit s.cfg s.plb.seg

/-- The invariant of the machine. -/
structure Inv (s : State) : Prop where
  payload : s.pay.wf
  slots : s.plb.count ≤ s.plb.cap
  count : s.plb.count ≤ 65535
  shape : planShape s.plb.seg
  framesSent : ∀ out status, Event.transfer out status ∈ s.trace →
    1 ≤ out.length ∧ out.length ≤ Config.frameMax
  running : s.seq.phase ≠ .idle → Running s

end Sys2Proof.Machine
end

