-- ==== Sys2Proof/Certificates/Slice0/Obligations.lean ====
section
/-! DEFINITION. Sys2Proof/Certificates/Slice0/Obligations.lean: the statements for the provers. Each docstring says
which rule of spec/ it formalises. -/

open Sys2Proof Sys2Proof.Machine

/-! ## Encoding and decoding -/

/-- Decoding an encoded operation gives it back, for every well-formed operation with every operand value
(30_encoding R91 to R100, read back as R108 says). Words are tagged with their channel and format: log 20.
`FRAME_MAX` = 515: log 13. That `cap` is an operand of the command is log 24. -/
def Obligations.EncodedOperationDecodesBack : Prop :=
  ∀ i : Instr, i.wellFormed = true → decode (encode i) = .ok i

/-- Whatever the decoder accepts is a well-formed operation that encodes to exactly the word read: no word has a
second meaning (30_encoding R91 to R104). Words are tagged with their channel and format: log 20. `FRAME_MAX` = 515:
log 13. That `cap` is an operand of the command, whose lack or excess is refused, is log 24. -/
def Obligations.DecodedWordEncodesBack : Prop :=
  ∀ (e : Encoded) (i : Instr), decode e = .ok i → encode i = e ∧ i.wellFormed = true

/-- Words written out from the spec's layouts decode to the operations they stand for (30_encoding R91 to R100; the
frames are those of 95_test_vectors F-1, F-6, S-E). Words are tagged with their channel and format: log 20.
`DELAY_BITS` = 32: log 14. That `cap` is an operand of the command is log 24. -/
def Obligations.WrittenOutWordsDecode : Prop :=
  decode (.cmd 0b01 (some 3)) = .ok (.plan 3) ∧
  decode (.cmd 0b10 none) = .ok .execute ∧
  decode (.cmd 0b11 (some 3)) = .ok (.writeOp 3) ∧
  decode (.frame .fWren [0x06]) = .ok (.wren [0x06]) ∧
  decode (.frame (.fWrite .a1) [0x02, 0x34, 0xAA, 0xBB]) = .ok (.writeA1 0x02 0x34 [0xAA, 0xBB]) ∧
  decode (.frame (.fWrite .a2b) [0x02, 0x12, 0x34, 0xAA, 0xBB]) =
    .ok (.writeA2b 0x02 0x1234 [0xAA, 0xBB]) ∧
  decode (.frame (.fWrite .a2l) [0x02, 0x34, 0x12, 0xAA, 0xBB]) =
    .ok (.writeA2l 0x02 0x1234 [0xAA, 0xBB]) ∧
  decode (.sleep 0x00000005) = .ok (.delay 5)

/-- Host operation code 00 is refused: the decoder gives no operation, the instruction of that row is refused in
every state, and so is the host's start of it (30_encoding R103). The queue of host moves is log 1. The constructor
of the reserved row is log 23. -/
def Obligations.ReservedCodeIsRefused : Prop :=
  (∀ cap, decode (.cmd 0b00 cap) = .error .reservedOperation) ∧
  (∀ s : State, exec .reserved s = .refused .reservedOperation) ∧
  (∀ (s : State) cap rest, s.seq.phase = .idle → s.host = .start 0b00 cap :: rest →
    step s = .refused .reservedOperation)

/-- The address bytes: big gives `[a[15:8], a[7:0]]`, little gives `[a[7:0], a[15:8]]`, width 1 gives
`[a[7:0]]`, with `a[15:8] = ⌊a / 256⌋` and `a[7:0] = a mod 256` (30_encoding R98, 20_memory R65). -/
def Obligations.AddressBytesInConfiguredOrder : Prop :=
  ∀ a : Word,
    (a.extractLsb' 8 8).toNat = a.toNat / 256 ∧ (a.extractLsb' 0 8).toNat = a.toNat % 256 ∧
    encAddr .a2b a = [a.extractLsb' 8 8, a.extractLsb' 0 8] ∧
    encAddr .a2l a = [a.extractLsb' 0 8, a.extractLsb' 8 8] ∧
    encAddr .a1 a = [a.extractLsb' 0 8]

/-- Which WRITE step runs is a function of the configuration: width 1 (endianness not read) WRITE.A1 with the low
address byte only, width 2 big WRITE.A2B, width 2 little WRITE.A2L; any other width selects none and ends in
ConfigError before a frame is built (30_encoding R97, 20_memory R73). The last stands in states that no run reaches,
where the model's step is log 22. That the leftover registers `PLN`, `FRM` and `TMR` keep their values is log 18. -/
def Obligations.WriteStepSelectedByConfiguration : Prop :=
  ∀ (s : State) (g : PageSegment) (data : List Byte),
    s.seq.phase = .write → s.plb.seg[s.seq.index.toNat]? = some g →
    s.pay.memRead g.sourceOffset.toNat g.length.toNat = some data →
    (s.cfg.addressByteWidth = 1 →
      step s = exec (.writeA1 s.cfg.writeOpcode (g.address.extractLsb' 0 8) data) s) ∧
    (s.cfg.addressByteWidth = 2 → s.cfg.endianness = .big →
      step s = exec (.writeA2b s.cfg.writeOpcode g.address data) s) ∧
    (s.cfg.addressByteWidth = 2 → s.cfg.endianness = .little →
      step s = exec (.writeA2l s.cfg.writeOpcode g.address data) s) ∧
    (s.cfg.addressByteWidth ≠ 1 → s.cfg.addressByteWidth ≠ 2 →
      step s = .next { s with
        result := .error .configError
        plb := { s.plb with valid := false }
        seq := { s.seq with phase := .idle } })

/-- In every state that meets the invariant and stands at a WRITE step, the frame of 41_write_sequencer R152 for the
current segment is what the fetched instruction encodes to, and reading it back in the configured format gives that
instruction (30_encoding R93, R108). Words are tagged with their channel and format: log 20. -/
def Obligations.EmittedWriteFrameReadsBack : Prop :=
  ∀ s : State, Inv s → s.seq.phase = .write →
    ∃ g format bytes i, s.plb.seg[s.seq.index.toNat]? = some g ∧
      s.cfg.writeFormat = some format ∧ segmentFrame s g = some bytes ∧
      fetchWrite s = .run i ∧ encode i = .frame (.fWrite format) bytes ∧
      decode (.frame (.fWrite format) bytes) = .ok i

/-! ## The step -/

/-- A step in phase IDLE whose next host move starts an operation runs the operation its code decodes to, with the
move taken from the host's queue (30_encoding R91). The queue is the model's own (log 1). That `cap` is an operand
of the command is log 24. -/
def Obligations.IdleStepRunsStartedOperation : Prop :=
  ∀ (s : State) op cap rest i, s.seq.phase = .idle → s.host = .start op cap :: rest →
    decode (.cmd op cap) = .ok i → step s = exec i { s with host := rest }

/-- A step in phase WREN, WRITE or DELAY runs the instruction that the bytes at the sequencer position decode to:
the write-enable frame, the addressed-write frame of the current segment, the delay request (41_write_sequencer
R152). Words are tagged with their channel and format: log 20. That each phase of a segment is a step of its own is
log 9. -/
def Obligations.SequencerStepRunsDecodedFrame : Prop :=
  ∀ (s : State) (i : Instr),
    (s.seq.phase = .wren → decode (.frame .fWren s.cfg.wrenFrame) = .ok i →
      step s = exec i s) ∧
    (∀ g format bytes, s.seq.phase = .write → s.plb.seg[s.seq.index.toNat]? = some g →
      s.cfg.writeFormat = some format → segmentFrame s g = some bytes →
      decode (.frame (.fWrite format) bytes) = .ok i → step s = exec i s) ∧
    (s.seq.phase = .delay → decode (.sleep s.cfg.interPageDelayMs) = .ok i →
      step s = exec i s)

/-- The block does nothing by itself: idle and with no host move, a step leaves every field as it is; no transfer,
no sleep (70_reset_and_hazards R241). That waiting for the host is a step that changes nothing is log 1. -/
def Obligations.IdleBlockWaitsForHost : Prop :=
  ∀ s : State, s.seq.phase = .idle → s.host = [] → ∀ k, runSteps k s = .next s

/-- While a sequence runs, no step changes an operand register, the payload, a slot of the plan, the buffer's
capacity, or takes a host move: the host has no move during an operation (10_state R41, 20_memory R79, 60_exceptions
R214). The queue of host moves is log 1. That each phase of a segment is a step of its own is log 9. -/
def Obligations.OperandsFrozenWhileSequencing : Prop :=
  ∀ s t : State, s.seq.phase ≠ .idle → step s = .next t →
    t.cfg = s.cfg ∧ t.req = s.req ∧ t.pay = s.pay ∧ t.written = s.written ∧
    t.plb.seg = s.plb.seg ∧ t.plb.cap = s.plb.cap ∧ t.host = s.host

/-- No operation and no step of the block writes `CFG`, `REQ` or `PAY` (10_state R41, 40_page_planner R140,
60_exceptions R208). The queue of host moves is log 1. -/
def Obligations.OperationsNeverWriteOperands : Prop :=
  ∀ (i : Instr) (s t : State), exec i s = .next t →
    t.cfg = s.cfg ∧ t.req = s.req ∧ t.pay = s.pay ∧ t.written = s.written ∧ t.host = s.host

/-- A host load writes its one register, which is written from then on, and nothing else (10_state R21 to R27, R39,
R41; 30_encoding R106). The queue of host moves is the model's own (log 1). That the leftover registers `PLN`, `FRM`
and `TMR` keep their values is log 18. -/
def Obligations.HostLoadWritesItsRegister : Prop :=
  ∀ (s : State) (rest : List HostMove), s.seq.phase = .idle →
    (∀ v, s.host = .load (.pageSize v) :: rest →
      step s = .next { s with
        host := rest
        cfg := { s.cfg with pageSize := v }
        written := { s.written with pageSize := true } }) ∧
    (∀ v, s.host = .load (.addressByteWidth v) :: rest →
      step s = .next { s with
        host := rest
        cfg := { s.cfg with addressByteWidth := v }
        written := { s.written with addressByteWidth := true } }) ∧
    (∀ v, s.host = .load (.endianness v) :: rest →
      step s = .next { s with
        host := rest
        cfg := { s.cfg with endianness := v }
        written := { s.written with endianness := true } }) ∧
    (∀ v, s.host = .load (.interPageDelayMs v) :: rest →
      step s = .next { s with
        host := rest
        cfg := { s.cfg with interPageDelayMs := v }
        written := { s.written with interPageDelayMs := true } }) ∧
    (∀ v, s.host = .load (.wrenFrame v) :: rest →
      step s = .next { s with
        host := rest
        cfg := { s.cfg with wrenFrame := v }
        written := { s.written with wrenFrame := true } }) ∧
    (∀ v, s.host = .load (.writeOpcode v) :: rest →
      step s = .next { s with
        host := rest
        cfg := { s.cfg with writeOpcode := v }
        written := { s.written with writeOpcode := true } }) ∧
    (∀ v, s.host = .load (.startOffset v) :: rest →
      step s = .next { s with
        host := rest
        req := { s.req with startOffset := v }
        written := { s.written with startOffset := true } }) ∧
    (∀ v, s.host = .load (.totalLength v) :: rest →
      step s = .next { s with
        host := rest
        req := { s.req with totalLength := v }
        written := { s.written with totalLength := true } })

/-- Loading the payload makes `MemRead(addr, n)` yield the loaded bytes in increasing index order, defined only when
`addr + n ≤ |PAY|`, the empty sequence for `n = 0` inside the payload; `PAY` is written from then on, and nothing
else changes (20_memory R62, 10_state R28, R39). The queue of host moves is log 1. That `PAY` is loaded whole is log
17. That the leftover registers `PLN`, `FRM` and `TMR` keep their values is log 18. -/
def Obligations.LoadedPayloadReadsBack : Prop :=
  ∀ (s : State) (bytes : List Byte) (rest : List HostMove), s.seq.phase = .idle →
    s.host = .load (.payload bytes) :: rest → bytes.length ≤ 65536 →
    ∃ t, step s = .next t ∧ t = { s with host := rest, pay := t.pay, written := { s.written with payload := true } } ∧
      t.pay.size = bytes.length ∧
      (∀ addr n, addr + n ≤ bytes.length →
        t.pay.memRead addr n = some ((bytes.drop addr).take n)) ∧
      (∀ addr n, bytes.length < addr + n → t.pay.memRead addr n = none)

/-! ## PLAN -/

/-- PLAN with its operands written, the range inside the address space, a page size above 0 and enough slots ends
`ok` with exactly the segments of the closed form in the plan buffer (40_page_planner R122, R123, R133, R134). PLAN
is one step: log 8. That `PLB.cap` takes `cap` is log 24. -/
def Obligations.PlanCompletesWithClosedForm : Prop :=
  ∀ (s : State) (cap p L S : Nat), planOperands s = some (p, L, S) →
    (L = 0 ∨ S + L - 1 ≤ 65535) → 0 < p → pageCount p L S ≤ cap →
    ∃ t, exec (.plan cap) s = .next t ∧ t.result = .ok ∧
      t.plb = { seg := closedPlan p L S, cap := cap, valid := true }

/-- Containment: every segment of a plan lies in one page and has a length from 1 to the page size
(40_page_planner R125). -/
def Obligations.PlanSegmentsStayInOnePage : Prop :=
  ∀ (s t : State) (cap p L S : Nat), planOperands s = some (p, L, S) →
    exec (.plan cap) s = .next t → t.result = .ok →
    ∀ g ∈ t.plb.seg,
      g.address.toNat / p = (g.address.toNat + g.length.toNat - 1) / p ∧
      1 ≤ g.length.toNat ∧ g.length.toNat ≤ p

/-- Contiguity and order: the first segment starts at the start offset, each next one where the one before ends,
and addresses ascend (40_page_planner R126). -/
def Obligations.PlanSegmentsAreContiguous : Prop :=
  ∀ (s t : State) (cap p L S : Nat), planOperands s = some (p, L, S) →
    exec (.plan cap) s = .next t → t.result = .ok →
    (∀ g, t.plb.seg[0]? = some g → g.address.toNat = S) ∧
    (∀ k g h, t.plb.seg[k]? = some g → t.plb.seg[k + 1]? = some h →
      g.address.toNat + g.length.toNat = h.address.toNat ∧ g.address.toNat < h.address.toNat)

/-- Coverage: the lengths of the segments add up to the total length, and the segments cover exactly the addresses
`S .. S + L − 1`, each in exactly one segment (40_page_planner R127). -/
def Obligations.PlanCoversRequestExactlyOnce : Prop :=
  ∀ (s t : State) (cap p L S : Nat), planOperands s = some (p, L, S) →
    exec (.plan cap) s = .next t → t.result = .ok →
    (t.plb.seg.map fun g => g.length.toNat).sum = L ∧
    (∀ g ∈ t.plb.seg, S ≤ g.address.toNat ∧ g.address.toNat + g.length.toNat ≤ S + L) ∧
    (∀ a, S ≤ a → a < S + L → ∃! k : Nat, ∃ g : PageSegment, t.plb.seg[k]? = some g ∧
      g.address.toNat ≤ a ∧ a < g.address.toNat + g.length.toNat)

/-- Source offsets: the first is 0, each next one adds the length before it, each is the address less the start
offset, and the payload slices put together are the payload (40_page_planner R128). -/
def Obligations.PlanSourceOffsetsRebuildPayload : Prop :=
  ∀ (s t : State) (cap p L S : Nat), planOperands s = some (p, L, S) →
    exec (.plan cap) s = .next t → t.result = .ok →
    (∀ g, t.plb.seg[0]? = some g → g.sourceOffset.toNat = 0) ∧
    (∀ k g h, t.plb.seg[k]? = some g → t.plb.seg[k + 1]? = some h →
      h.sourceOffset.toNat = g.sourceOffset.toNat + g.length.toNat) ∧
    (∀ g ∈ t.plb.seg, g.sourceOffset.toNat = g.address.toNat - S) ∧
    (∀ payload, s.pay.memRead 0 L = some payload →
      (∀ g ∈ t.plb.seg, s.pay.segmentData g ≠ none) ∧
      (t.plb.seg.map fun g => (s.pay.segmentData g).getD []).flatten = payload)

/-- Purity: PLAN's plan and result are a function of its operands and capacity alone, whatever else the two states
hold (40_page_planner R129). What the buffer shows after CapacityError is log 19, that `PLB.cap` takes `cap` log 24.
PLAN is one step: log 8. -/
def Obligations.PlanDependsOnItsOperandsOnly : Prop :=
  ∀ (s u : State) (cap : Nat), planOperands s = planOperands u →
    (∀ t, exec (.plan cap) s = .next t →
      ∃ v, exec (.plan cap) u = .next v ∧ v.result = t.result ∧ v.plb = t.plb) ∧
    (∀ r, exec (.plan cap) s = .refused r → exec (.plan cap) u = .refused r)

/-- Aligned, whole-page requests: `m` segments of one whole page each, and the last `nextPageBoundary` is one past
the last byte written (40_page_planner R130). That the register still shows that value once PLAN has ended is log
18. PLAN is one step: log 8. -/
def Obligations.PlanOfWholePages : Prop :=
  ∀ (s : State) (cap p m S : Nat), planOperands s = some (p, m * p, S) →
    0 < p → S % p = 0 → (m = 0 ∨ S + m * p - 1 ≤ 65535) → m ≤ cap →
    ∃ t, exec (.plan cap) s = .next t ∧ t.result = .ok ∧
      t.plb.seg = (List.range m).map (fun k =>
        ⟨BitVec.ofNat 16 (S + k * p), BitVec.ofNat 16 p, BitVec.ofNat 16 (k * p)⟩) ∧
      (0 < m → t.pln.nextPageBoundary.toNat = S + m * p)

/-- PLAN raises CapacityError exactly when the plan has more segments than `cap`, by the exact count; the slots `0
.. cap − 1` are written by then, the plan is not valid, and nothing is sent (40_page_planner R131, 60_exceptions
R202). That the buffer still shows the written slots follows the pseudocode: log 19. That `PLB.cap` takes `cap` is
log 24. PLAN is one step: log 8. -/
def Obligations.CapacityErrorExactlyWhenPlanTooLong : Prop :=
  ∀ (s : State) (cap p L S : Nat), planOperands s = some (p, L, S) →
    (L = 0 ∨ S + L - 1 ≤ 65535) → 0 < p →
    ((∃ t, exec (.plan cap) s = .next t ∧ t.result = .error .capacityError) ↔
      cap < pageCount p L S) ∧
    (∀ t, exec (.plan cap) s = .next t → t.result = .error .capacityError →
      t.plb = { seg := (closedPlan p L S).take cap, cap := cap, valid := false } ∧
      t.trace = s.trace)

/-- The sizing rule: a buffer of `⌈L / p⌉ + 1` slots or more makes CapacityError impossible (40_page_planner R132).
PLAN is one step: log 8. -/
def Obligations.SizedBufferNeverOverflows : Prop :=
  ∀ (s t : State) (cap p L S : Nat), planOperands s = some (p, L, S) →
    (L + p - 1) / p + 1 ≤ cap → exec (.plan cap) s = .next t →
    t.result ≠ .error .capacityError

/-- A zero total length is legal for every start offset and every capacity, 0 included: the plan is empty, valid,
and the result is `ok` (40_page_planner R121). -/
def Obligations.ZeroLengthPlanIsEmpty : Prop :=
  ∀ (s : State) (cap p S : Nat), planOperands s = some (p, 0, S) → 0 < p →
    ∃ t, exec (.plan cap) s = .next t ∧ t.result = .ok ∧
      t.plb.count = 0 ∧ t.plb.valid = true

/-- Range overflow: PLAN is refused with RangeOverflow, WRITE_OP is refused, and with RangeOverflow when its
other premises hold; a request that does not overflow is not refused for it (40_page_planner R138). -/
def Obligations.RangeOverflowIsRefused : Prop :=
  ∀ (s : State) (cap p L S : Nat), planOperands s = some (p, L, S) →
    (0 < L → 65535 < S + L - 1 →
      exec (.plan cap) s = .refused .rangeOverflow ∧
      (∃ r, exec (.writeOp cap) s = .refused r) ∧
      (CfgHoldsValues s.written s.cfg → s.written.payload = true → s.pay.size = L →
        (∀ a, a < L → Memory.read s.pay.cells a ≠ none) →
        exec (.writeOp cap) s = .refused .rangeOverflow)) ∧
    ((L = 0 ∨ S + L - 1 ≤ 65535) →
      exec (.plan cap) s ≠ .refused .rangeOverflow ∧
      exec (.writeOp cap) s ≠ .refused .rangeOverflow)

/-- A page size of 0: PLAN raises ConfigError before computing anything, for every length; the plan is empty and not
valid, the working registers and the sequencer position are as before (40_page_planner R139). That the working
registers keep their values, which U18 leaves open, is log 18. That `PLB.cap` takes `cap` is log 24. PLAN is one
step: log 8. -/
def Obligations.ZeroPageSizePlanIsConfigError : Prop :=
  ∀ (s : State) (cap L S : Nat), planOperands s = some (0, L, S) →
    (L = 0 ∨ S + L - 1 ≤ 65535) →
    exec (.plan cap) s = .next { s with
      result := .error .configError
      plb := { seg := [], cap := cap, valid := false } }

/-- What PLAN writes and what it can end in: everything but `PLN`, `PLB` and `RESULT` is unchanged; its errors are
ConfigError and CapacityError; it is refused for a range overflow or an unwritten operand only, and never faults
(40_page_planner R140). That `FRM` and `TMR` keep their values, which U18 leaves open, is log 18. PLAN is one step:
log 8. -/
def Obligations.PlanChangesOnlyPlanState : Prop :=
  ∀ (s : State) (cap : Nat),
    (∀ t, exec (.plan cap) s = .next t →
      t = { s with pln := t.pln, plb := t.plb, result := t.result } ∧
      (t.result = .ok ∨ t.result = .error .configError ∨ t.result = .error .capacityError)) ∧
    (∀ r, exec (.plan cap) s = .refused r → r = .rangeOverflow ∨ r = .unwrittenOperand) ∧
    (∀ f, exec (.plan cap) s ≠ .fault f)

/-- After a plan that ends `ok` the working registers hold `S + L`, 0 and `L`, without wrap-around (40_page_planner
R137, R123). That the registers still show these values once PLAN has ended is log 18. PLAN is one step: log 8. -/
def Obligations.PlanFinalWorkingRegisters : Prop :=
  ∀ (s t : State) (cap p L S : Nat), planOperands s = some (p, L, S) →
    exec (.plan cap) s = .next t → t.result = .ok →
    t.pln.currentAddress.toNat = S + L ∧ t.pln.remaining.toNat = 0 ∧
    t.pln.sourceOffset.toNat = L

/-- Resuming after a failure at a segment: the request that starts at that segment's address with the rest of the
length has as its plan the tail of the old plan, every source offset reduced by that segment's (60_exceptions R210).
PLAN is one step: log 8. -/
def Obligations.ResumedPlanIsTailOfOldPlan : Prop :=
  ∀ (s t u : State) (cap p L S k : Nat) (g : PageSegment), planOperands s = some (p, L, S) →
    exec (.plan cap) s = .next t → t.result = .ok → t.plb.seg[k]? = some g →
    planOperands u = some (p, L - g.sourceOffset.toNat, g.address.toNat) →
    ∃ v, exec (.plan cap) u = .next v ∧ v.result = .ok ∧
      v.plb.seg = (t.plb.seg.drop k).map (fun h =>
        { h with sourceOffset := h.sourceOffset - g.sourceOffset })

/-! ## Unwritten operands -/

/-- An operation started while one of the operand registers it reads holds no value, unwritten since reset, is
refused with UnwrittenOperand; `CFG.endianness` counts as read only at width 2 (70_reset_and_hazards R242). That
this is the reason named where other premises are broken too is log 12. -/
def Obligations.UnwrittenOperandIsRefused : Prop :=
  ∀ (s : State) (cap : Nat),
    (s.written.pageSize = false ∨ s.written.startOffset = false ∨
      s.written.totalLength = false →
      exec (.plan cap) s = .refused .unwrittenOperand) ∧
    (¬ CfgHoldsValues s.written s.cfg ∨ s.written.payload = false →
      exec .execute s = .refused .unwrittenOperand) ∧
    (¬ CfgHoldsValues s.written s.cfg ∨ s.written.startOffset = false ∨ s.written.totalLength = false ∨
      s.written.payload = false → exec (.writeOp cap) s = .refused .unwrittenOperand)

/-! ## EXECUTE -/

/-- EXECUTE is given a meaning only when its premises hold; otherwise it is refused, with the reason of the broken
premise (41_write_sequencer R151). Where several are broken, the order is the model's choice (log 12). `FRAME_MAX` =
515: log 13. -/
def Obligations.ExecuteRefusedExactlyOnBrokenPremise : Prop :=
  ∀ s : State,
    ((∃ r, exec .execute s = .refused r) ↔ ¬ ExecutePremises s) ∧
    (∀ r, exec .execute s = .refused r →
      (r = .unwrittenOperand ∧ ¬ (CfgHoldsValues s.written s.cfg ∧ s.written.payload = true ∧
        ∀ g ∈ s.plb.seg, ∀ a, g.sourceOffset.toNat ≤ a →
          a < g.sourceOffset.toNat + g.length.toNat → Memory.read s.pay.cells a ≠ none)) ∨
      (r = .noPlan ∧ s.plb.valid = false) ∨
      (r = .payloadBounds ∧ ∃ g ∈ s.plb.seg,
        s.pay.size < g.sourceOffset.toNat + g.length.toNat) ∨
      (r = .frameTooLong ∧ GoodConfig s.cfg ∧ ¬ FramesFit s.cfg s.plb.seg))

/-- EXECUTE on a plan with segments, premises and configuration good: the plan is consumed and the sequencer stands
at `(0, WREN)`; nothing else changes (41_write_sequencer R152, R183). That the step of EXECUTE ends there is log 9.
That `PLN`, `FRM` and `TMR` keep their values is log 18. -/
def Obligations.ExecuteStartsAtFirstWriteEnable : Prop :=
  ∀ s : State, ExecutePremises s → GoodConfig s.cfg → s.plb.seg ≠ [] →
    exec .execute s = .next { s with
      plb := { s.plb with valid := false }
      seq := ⟨0, .wren⟩ }

/-- EXECUTE on the empty plan: no transfer, no sleep, `RESULT = ok`, position `(0, IDLE)`; an invalid configuration
comes first and ends in ConfigError (41_write_sequencer R153). That `FRM` and `TMR` keep their values is log 18. -/
def Obligations.ExecuteOfEmptyPlan : Prop :=
  ∀ s : State, ExecutePremises s → s.plb.seg = [] →
    (GoodConfig s.cfg → exec .execute s = .next { s with
      plb := { s.plb with valid := false }
      seq := ⟨0, .idle⟩
      result := .ok }) ∧
    (¬ GoodConfig s.cfg → exec .execute s = .next { s with
      plb := { s.plb with valid := false }
      result := .error .configError })

/-- ConfigError is raised by EXECUTE and WRITE_OP exactly for a page size of 0, a width that is neither 1 nor 2, or
an empty write-enable frame, before any transport activity (60_exceptions R201, R208). That WRITE_OP clears
`PLB.valid` then is log 11. That it leaves `PLB.cap` as it was is log 24, and that `PLN`, `FRM` and `TMR` keep their
values log 18. -/
def Obligations.InvalidConfigurationIsConfigError : Prop :=
  ∀ s : State, s.seq.phase = .idle →
    (ExecutePremises s →
      ((∃ t, exec .execute s = .next t ∧ t.result = .error .configError ∧ t.seq = s.seq) ↔
        ¬ GoodConfig s.cfg)) ∧
    (ExecutePremises s → ¬ GoodConfig s.cfg → exec .execute s = .next { s with
      plb := { s.plb with valid := false }
      result := .error .configError }) ∧
    (∀ cap p L S, WriteOpPremises s p L S → ¬ GoodConfig s.cfg →
      exec (.writeOp cap) s = .next { s with
        plb := { s.plb with valid := false }
        result := .error .configError }) ∧
    (∀ cap p L S, WriteOpPremises s p L S →
      ((∃ t, exec (.writeOp cap) s = .next t ∧ t.result = .error .configError ∧ t.seq = s.seq) ↔
        ¬ GoodConfig s.cfg))

/-- The plan is consumed: an EXECUTE that ran, successful or not, leaves `PLB.valid` at 0; no step of the sequence
that follows sets it again; and while it is 0 an EXECUTE whose operands are written is refused with NoPlan, the
second EXECUTE on one plan among them (41_write_sequencer R183, R151). That NoPlan is the reason named where other
premises are broken too is log 12. That the step of EXECUTE ends at `(0, WREN)`, from where its sequence takes
further steps, is log 9. -/
def Obligations.ExecuteConsumesThePlan : Prop :=
  (∀ s t : State, exec .execute s = .next t →
    t.plb.valid = false ∧ exec .execute t = .refused .noPlan) ∧
  (∀ s t : State, s.seq.phase ≠ .idle → s.plb.valid = false → step s = .next t →
    t.plb.valid = false) ∧
  (∀ s : State, CfgHoldsValues s.written s.cfg → s.written.payload = true → s.plb.valid = false →
    exec .execute s = .refused .noPlan)

/-! ## WRITE_OP -/

/-- WRITE_OP with its premises, a good configuration and enough slots: the plan of the request is in the buffer and
consumed, and the sequencer stands at `(0, WREN)`, or the operation is over with `ok` when the length is 0; only
`PLN` changes besides (41_write_sequencer R181, R152, R153). That `RESULT` is not written before the end is log 10.
That the step ends there is log 9, that `PLB.cap` takes `cap` log 24, that `FRM` and `TMR` keep their values log 18.
-/
def Obligations.WriteOpPlansAndStarts : Prop :=
  ∀ (s : State) (cap p L S : Nat), WriteOpPremises s p L S → GoodConfig s.cfg →
    pageCount p L S ≤ cap →
    ∃ t, exec (.writeOp cap) s = .next t ∧
      t = { s with
        pln := t.pln
        plb := { seg := closedPlan p L S, cap := cap, valid := false }
        seq := ⟨0, if L = 0 then .idle else .wren⟩
        result := if L = 0 then .ok else s.result }

/-- The order of checks of WRITE_OP: configuration, then planning, then transport; the step that starts it makes no
transfer and no sleep, and a plan that does not fit is never started in part (41_write_sequencer R182, 60_exceptions
R207). What belongs to the step that starts it is log 9. -/
def Obligations.WriteOpChecksBeforeTransport : Prop :=
  ∀ (s : State) (cap : Nat),
    (∀ t, exec (.writeOp cap) s = .next t →
      t.trace = s.trace ∧ t.transport = s.transport ∧ t.wakes = s.wakes) ∧
    (∀ p L S, WriteOpPremises s p L S →
      (¬ GoodConfig s.cfg →
        ∃ t, exec (.writeOp cap) s = .next t ∧ t.result = .error .configError ∧ t.seq = s.seq) ∧
      (GoodConfig s.cfg → cap < pageCount p L S →
        ∃ t, exec (.writeOp cap) s = .next t ∧ t.result = .error .capacityError ∧
          t.seq = s.seq ∧ t.plb.valid = false))

/-- WRITE_OP is the configuration check followed by PLAN and, when that ended `ok`, by EXECUTE: where it runs with a
good configuration, PLAN followed by EXECUTE reaches the same state, but for `RESULT`, which WRITE_OP writes at its
end only (30_encoding R107, 41_write_sequencer R181; log 10). Leftover registers and the buffer after CapacityError
are compared as the model leaves them: logs 18 and 19. So is `PLB.cap`: log 24. Both end their own step at `(0,
WREN)`: log 9. -/
def Obligations.WriteOpIsPlanThenExecute : Prop :=
  ∀ (s t : State) (cap : Nat), GoodConfig s.cfg → exec (.writeOp cap) s = .next t →
    ∃ u, exec (.plan cap) s = .next u ∧
      ((u.result = .error .capacityError ∧ t = u) ∨
       (u.result = .ok ∧ ∃ v, exec .execute u = .next v ∧
        t = { v with result := if u.plb.seg = [] then .ok else s.result }))

/-- WRITE_OP is refused exactly when one of its premises is broken; a payload that is not of length `totalLength`
gives PayloadBounds, a frame of the plan longer than `FRAME_MAX` gives FrameTooLong (41_write_sequencer R181, R162,
R163). That the write-enable frame is tested for an empty plan too is log 27. `FRAME_MAX` = 515: log 13. Where
several premises are broken, the order is log 12. -/
def Obligations.WriteOpRefusedOnBrokenPremise : Prop :=
  ∀ (s : State) (cap p L S : Nat), planOperands s = some (p, L, S) →
    ((∃ r, exec (.writeOp cap) s = .refused r) ↔ ¬ WriteOpPremises s p L S) ∧
    (CfgHoldsValues s.written s.cfg → s.written.payload = true → s.pay.size ≠ L →
      exec (.writeOp cap) s = .refused .payloadBounds) ∧
    (CfgHoldsValues s.written s.cfg → s.written.payload = true → s.pay.size = L →
      (∀ a, a < L → Memory.read s.pay.cells a ≠ none) → (L = 0 ∨ S + L - 1 ≤ 65535) →
      GoodConfig s.cfg → ¬ FramesFit s.cfg (closedPlan p L S) →
      exec (.writeOp cap) s = .refused .frameTooLong)

/-- What the step of EXECUTE and the step of WRITE_OP leave as it was: in both the operands, `FRM`, `TMR`, the
trace, the inputs and the host's moves, in EXECUTE also `PLN` and the slots of the plan (41_write_sequencer R152,
R181). The whole EXECUTE has the trace that R152 and R178 give it; that its own step ends at `(0, WREN)`, before any
transfer, so that `trace`, `transport` and `wakes` are unchanged here, is log 9. That `PLN` (in EXECUTE), `FRM` and
`TMR` keep their values is log 18. The host's moves and the inputs are the model's: logs 1, 4 and 6. -/
def Obligations.HostOperationsFrame : Prop :=
  (∀ s t : State, exec .execute s = .next t →
    t = { s with plb := { s.plb with valid := false }, seq := t.seq, result := t.result }) ∧
  (∀ (s t : State) cap, exec (.writeOp cap) s = .next t →
    t = { s with pln := t.pln, plb := t.plb, seq := t.seq, result := t.result })

/-! ## The sequencer's steps -/

/-- WREN: one transfer of the frame; answered `success`, it is recorded and the sequencer goes on to WRITE; nothing
else changes (41_write_sequencer R154, R164). Every response is accepted: log 15. `FRAME_MAX` = 515: log 13. The
Transport's answers are an input: log 4. That each phase of a segment is a step of its own is log 9. That `PLN` and
`TMR` keep their values is log 18. -/
def Obligations.WriteEnableStepCompletes : Prop :=
  ∀ (s : State) (frame inBytes : List Byte) (rest : List Response), frame.length ≤ 515 →
    s.transport = .success inBytes :: rest →
    exec (.wren frame) s = .next { s with
      frm := frame
      transport := rest
      trace := s.trace ++ [.transfer frame .success]
      seq := { s.seq with phase := .write } }

/-- WRITE.A1, WRITE.A2B, WRITE.A2L: one transfer of opcode, address byte(s) and data; answered `success`, it is
recorded and the sequencer goes on to DELAY; nothing else changes (41_write_sequencer R158, R159, R160, R164;
30_encoding R94 to R96). Every response is accepted: log 15. `FRAME_MAX` = 515: log 13. The Transport's answers are
an input: log 4. That each phase of a segment is a step of its own is log 9. That `PLN` and `TMR` keep their values
is log 18. -/
def Obligations.WriteStepsComplete : Prop :=
  ∀ (s : State) (opcode : Byte) (data inBytes : List Byte) (rest : List Response),
    s.transport = .success inBytes :: rest →
    (∀ lo, 2 + data.length ≤ 515 → exec (.writeA1 opcode lo data) s = .next { s with
      frm := [opcode, lo] ++ data
      transport := rest
      trace := s.trace ++ [.transfer ([opcode, lo] ++ data) .success]
      seq := { s.seq with phase := .delay } }) ∧
    (∀ a : Word, 3 + data.length ≤ 515 → exec (.writeA2b opcode a data) s = .next { s with
      frm := [opcode, a.extractLsb' 8 8, a.extractLsb' 0 8] ++ data
      transport := rest
      trace := s.trace ++
        [.transfer ([opcode, a.extractLsb' 8 8, a.extractLsb' 0 8] ++ data) .success]
      seq := { s.seq with phase := .delay } }) ∧
    (∀ a : Word, 3 + data.length ≤ 515 → exec (.writeA2l opcode a data) s = .next { s with
      frm := [opcode, a.extractLsb' 0 8, a.extractLsb' 8 8] ++ data
      transport := rest
      trace := s.trace ++
        [.transfer ([opcode, a.extractLsb' 0 8, a.extractLsb' 8 8] ++ data) .success]
      seq := { s.seq with phase := .delay } })

/-- DELAY: one sleep for exactly the requested milliseconds, 0 included; once the Clock has ended it, it is recorded
and the sequencer advances to the next slot's WREN, or to IDLE with `RESULT = ok` after the last (41_write_sequencer
R170, R171, R173, R177). That `TMR` still shows the request once the operation has ended is log 18. The sleeps the
Clock ends are an input: log 6. That each phase of a segment is a step of its own is log 9. That `PLN` and `FRM`
keep their values is log 18. -/
def Obligations.DelayStepCompletes : Prop :=
  ∀ (s : State) (ms : Millis) (n : Nat), s.wakes = n + 1 → s.seq.index.toNat < s.plb.count →
    s.plb.count ≤ 65535 →
    (s.seq.index.toNat + 1 < s.plb.count → exec (.delay ms) s = .next { s with
      tmr := ms
      wakes := n
      trace := s.trace ++ [.sleep ms]
      seq := ⟨s.seq.index + 1, .wren⟩ }) ∧
    (s.seq.index.toNat + 1 = s.plb.count → exec (.delay ms) s = .next { s with
      tmr := ms
      wakes := n
      trace := s.trace ++ [.sleep ms]
      seq := ⟨BitVec.ofNat 16 s.plb.count, .idle⟩
      result := .ok })

/-- A transfer answered `failure` raises ProtocolError, one answered `fault(d)` raises TransportError with `d`
unchanged; both name the ordinal `SEQ.index + 1` and the step; the phase returns to IDLE, the index is kept, nothing
further is sent, and no delay is made (41_write_sequencer R164, R172, R174; 60_exceptions R203, R204, R205, R208).
`FRAME_MAX` = 515: log 13. That `FRM` still shows the frame once the operation has ended is log 18. The Transport's
answers are an input: log 4. `INDEX_BASE` = 1: log 16. That `PLN` and `TMR` keep their values is log 18 too. -/
def Obligations.FailedTransferRaisesItsError : Prop :=
  ∀ (s : State) (i : Instr) (rt : RoundTrip) (out : List Byte) (rest : List Response),
    sends i = some (rt, out) → out.length ≤ 515 →
    (∀ inBytes, s.transport = .failure inBytes :: rest → exec i s = .next { s with
      frm := out
      transport := rest
      trace := s.trace ++ [.transfer out .failure]
      seq := { s.seq with phase := .idle }
      plb := { s.plb with valid := false }
      result := .error (.protocolError (s.seq.index + 1) rt) }) ∧
    (∀ d, s.transport = .fault d :: rest → exec i s = .next { s with
      frm := out
      transport := rest
      trace := s.trace ++ [.transfer out (.fault d)]
      seq := { s.seq with phase := .idle }
      plb := { s.plb with valid := false }
      result := .error (.transportError (s.seq.index + 1) rt d) })

/-- A response that `RESP_CHECK` rejects makes a successful-status transfer a ProtocolError, whatever the predicate
(41_write_sequencer R164; the hardware's own predicate is log 15; `FRAME_MAX` = 515 is log 13; that `FRM` still
shows the frame once the operation has ended is log 18). The Transport's answers are an input: log 4. `INDEX_BASE` =
1: log 16. That `PLN` and `TMR` keep their values is log 18 too. -/
def Obligations.RejectedResponseRaisesProtocolError : Prop :=
  ∀ (respCheck : RoundTrip → List Byte → List Byte → Bool) (s : State) (rt : RoundTrip)
    (next : Phase) (out inBytes : List Byte) (rest : List Response), out.length ≤ 515 →
    s.transport = .success inBytes :: rest → respCheck rt out inBytes = false →
    transferWith respCheck out rt next s = .next { s with
      frm := out
      transport := rest
      trace := s.trace ++ [.transfer out .success]
      seq := { s.seq with phase := .idle }
      plb := { s.plb with valid := false }
      result := .error (.protocolError (s.seq.index + 1) rt) }

/-- The content of the response is ignored: two states that differ only in the response bytes of the next answer
behave alike at every step that transfers (41_write_sequencer R165; log 15). The Transport's answers are an input:
log 4. -/
def Obligations.ResponseBytesAreIgnored : Prop :=
  ∀ (s : State) (i : Instr) (a b : List Byte) (rest : List Response), sends i ≠ none →
    exec i { s with transport := .success a :: rest } =
      exec i { s with transport := .success b :: rest } ∧
    exec i { s with transport := .failure a :: rest } =
      exec i { s with transport := .failure b :: rest }

/-- A collaborator that never answers: the block stays where it stands for ever, with no event, no result and no
advance (60_exceptions R215, R227). That a step of the waiting state answers that state is log 5. What is answered
is an input: logs 4 and 6. That `PLN` keeps its values is log 18. -/
def Obligations.UnansweredRequestHangs : Prop :=
  ∀ s : State, Inv s → s.seq.phase ≠ .idle →
    (s.seq.phase ≠ .delay → s.transport = []) → (s.seq.phase = .delay → s.wakes = 0) →
    ∃ t, (∀ k, runSteps (k + 1) s = .next t) ∧
      t = { s with frm := t.frm, tmr := t.tmr }

/-- A frame longer than `FRAME_MAX` is never handed to the transport: the step is refused (20_memory R64;
`FRAME_MAX` = 515 is log 13). That the step itself tests the length is log 27. -/
def Obligations.LongFrameIsNeverHandedOver : Prop :=
  ∀ (s : State) (i : Instr) (rt : RoundTrip) (out : List Byte),
    sends i = some (rt, out) → 515 < out.length → exec i s = .refused .frameTooLong

/-! ## A whole sequence -/

/-- EXECUTE when every transfer succeeds and every sleep ends: after its own step and three steps for each segment,
the trace has grown by exactly write-enable, addressed write, sleep for each segment in plan order, the result is
`ok` and the position `(n, IDLE)` (41_write_sequencer R152, R171, R177, R178; 20_memory R75). Every response is
accepted: log 15. The inputs and the count of steps are the model's: logs 1, 4, 6, 9. That `PLN` keeps its values is
log 18. -/
def Obligations.ExecuteWithAllTransfersSucceeding : Prop :=
  ∀ (s : State) (rest : List HostMove) (answers : List (List Byte)) (more : List Response),
    s.seq.phase = .idle → s.host = .start 0b10 none :: rest → ExecutePremises s →
    GoodConfig s.cfg → s.plb.count ≤ 65535 → answers.length = 2 * s.plb.count →
    s.transport = answers.map .success ++ more → s.plb.count ≤ s.wakes →
    ∃ t, runSteps (1 + 3 * s.plb.count) s = .next t ∧
      t = { s with
        host := rest
        plb := { s.plb with valid := false }
        seq := ⟨BitVec.ofNat 16 s.plb.count, .idle⟩
        result := .ok
        frm := t.frm
        tmr := t.tmr
        transport := more
        wakes := s.wakes - s.plb.count
        trace := s.trace ++ successTrace s s.plb.seg }

/-- EXECUTE when the first answer that is no success comes after `m` successes, `m < 2n`: the trace is that of the
whole segments before it, the successful write-enable of its own segment if the addressed write failed, and the
failed transfer; the error names segment `m / 2 + 1` and the step; nothing follows (41_write_sequencer R174, R178;
60_exceptions R209). Every response is accepted: log 15. The inputs and the count of steps are the model's: logs 1,
4, 6, 9. `INDEX_BASE` = 1: log 16. -/
def Obligations.ExecuteStopsAtFirstFailedTransfer : Prop :=
  ∀ (s : State) (rest : List HostMove) (answers : List (List Byte)) (bad : Response)
    (more : List Response) (g : PageSegment) (frame : List Byte),
    s.seq.phase = .idle → s.host = .start 0b10 none :: rest → ExecutePremises s →
    GoodConfig s.cfg → s.plb.count ≤ 65535 → answers.length < 2 * s.plb.count →
    bad.succeeded = false → s.transport = answers.map .success ++ bad :: more →
    answers.length / 2 ≤ s.wakes → s.plb.seg[answers.length / 2]? = some g →
    segmentFrame s g = some frame →
    ∃ t, runSteps (1 + 3 * (answers.length / 2) + answers.length % 2 + 1) s = .next t ∧
      t.result = .error (failureError (BitVec.ofNat 16 (answers.length / 2 + 1))
        (if answers.length % 2 = 0 then .wren else .write) bad) ∧
      t.seq = ⟨BitVec.ofNat 16 (answers.length / 2), .idle⟩ ∧ t.plb.valid = false ∧
      t.transport = more ∧ t.host = rest ∧
      t.trace = s.trace ++ successTrace s (s.plb.seg.take (answers.length / 2)) ++
        (if answers.length % 2 = 0 then [.transfer s.cfg.wrenFrame bad.status]
         else [.transfer s.cfg.wrenFrame .success, .transfer frame bad.status])

/-- A whole WRITE_OP at address width 2 that succeeds asks the device for exactly the payload at exactly the
requested addresses, every byte once and in increasing address order (41_write_sequencer R179, R181; 40_page_planner
R125 to R128). Every response is accepted: log 15. The inputs and the count of steps are the model's: logs 1, 4, 6,
9. That `cap` is an operand of the command is log 24. -/
def Obligations.WriteOpAsksForEveryByteOnce : Prop :=
  ∀ (s : State) (rest : List HostMove) (cap p L S : Nat) (format : AddressFormat)
    (payload : List Byte) (answers : List (List Byte)) (more : List Response),
    s.seq.phase = .idle → s.host = .start 0b11 (some cap) :: rest →
    WriteOpPremises s p L S → GoodConfig s.cfg → s.cfg.writeFormat = some format →
    format ≠ .a1 → s.pay.memRead 0 L = some payload → pageCount p L S ≤ cap →
    answers.length = 2 * pageCount p L S → s.transport = answers.map .success ++ more →
    pageCount p L S ≤ s.wakes →
    ∃ t events, runSteps (1 + 3 * pageCount p L S) s = .next t ∧ t.result = .ok ∧
      t.seq = ⟨BitVec.ofNat 16 (pageCount p L S), .idle⟩ ∧
      t.trace = s.trace ++ events ∧ deviceRequests format events = cellsAt S payload

/-! ## Invariants of the machine -/

/-- The state after reset meets the invariant (10_state R39). The values that R39 leaves open are logs 2 and 3. -/
def Obligations.ResetMeetsInvariant : Prop := Inv State.reset

/-- Every step keeps the invariant: the payload's canonical form, the plan buffer's bounds and shape, frames within
`FRAME_MAX`, and, while a sequence runs, a filled slot, a consumed plan and a good configuration (10_state R30, R31,
R40; 41_write_sequencer R151, R183). `FRAME_MAX` = 515: log 13. -/
def Obligations.EveryStepKeepsInvariant : Prop :=
  ∀ s t : State, Inv s → step s = .next t → Inv t

/-- A running sequence never stops by refusal or fault: from every state that meets the invariant, a sequencer step
answers a next state (41_write_sequencer R151: a refused EXECUTE never emits part of a trace). That a step which
waits for an answer or a wake answers a next state is log 5. -/
def Obligations.RunningSequenceNeverStops : Prop :=
  ∀ s : State, Inv s → s.seq.phase ≠ .idle → ∃ t, step s = .next t

/-- After reset: idle at slot 0, no plan, no result, no operand register written and no payload byte with a value
(10_state R39, 70_reset_and_hazards R241). -/
def Obligations.ResetState : Prop :=
  State.reset.seq = ⟨0, .idle⟩ ∧ State.reset.plb.valid = false ∧ State.reset.plb.count = 0 ∧
  State.reset.result = .none ∧
  State.reset.written = ⟨false, false, false, false, false, false, false, false, false⟩ ∧
  (∀ a, Memory.read State.reset.pay.cells a = none)

/-- Reset, which the host may apply only while the block is idle: the next move `reset` of an idle block leaves it at
slot 0 with no plan, no result and no operand register written, and `PLB.cap` as it was; it makes no transfer and no
sleep (70_reset_and_hazards R243, 10_state R39). The queue of host moves is the model's own (log 1), the inputs and the
trace stay (log 26). -/
def Obligations.ResetMoveClearsIdleBlock : Prop :=
  ∀ (s : State) (rest : List HostMove), s.seq.phase = .idle → s.host = .reset :: rest →
    ∃ t, step s = .next t ∧ t.seq = ⟨0, .idle⟩ ∧
      t.plb = { seg := [], cap := s.plb.cap, valid := false } ∧ t.result = .none ∧
      t.written = ⟨false, false, false, false, false, false, false, false, false⟩ ∧
      (∀ a, Memory.read t.pay.cells a = none) ∧ t.trace = s.trace ∧ t.transport = s.transport ∧
      t.wakes = s.wakes ∧ t.host = rest

/-- Whenever a step reports a new error, the block is idle with no valid plan and its operands untouched; a
transfer's error comes from the step the sequencer stood at and names the slot kept in `SEQ.index` plus 1
(60_exceptions R205, R208). That `PLB.valid` is 0 after a ConfigError of WRITE_OP is log 11, the ConfigError of a
running sequence (in states no run reaches) log 22. `INDEX_BASE` = 1: log 16. -/
def Obligations.RaisedErrorLeavesBlockIdle : Prop :=
  ∀ (s t : State) (e : WriteError), step s = .next t → t.result = .error e →
    s.result ≠ .error e →
    t.seq.phase = .idle ∧ t.plb.valid = false ∧ t.seq.index = s.seq.index ∧
    t.cfg = s.cfg ∧ t.req = s.req ∧ t.pay = s.pay ∧ t.written = s.written ∧
    (∀ g rt, (e = .protocolError g rt ∨ ∃ d, e = .transportError g rt d) →
      g = s.seq.index + 1 ∧ s.seq.phase = (match rt with | .wren => .wren | .write => .write))

/-- `RESULT` is written once by each operation, when it ends: a step that changes it leaves the block idle, as does
reset (10_state R33; for WRITE_OP see log 10). Reset is a host move: log 26. -/
def Obligations.ResultWrittenOnlyAtTheEnd : Prop :=
  ∀ s t : State, step s = .next t → t.result ≠ s.result → t.seq.phase = .idle

/-- The trace only grows, by at most one event a step; the step at WREN or WRITE adds at most one transfer, the step
at DELAY at most one sleep, and no other step adds anything (20_memory R71, R74). That `FRM` and `TMR` still show
the request once the operation has ended is log 18; the trace is log 7. -/
def Obligations.StepAddsAtMostOneEvent : Prop :=
  ∀ s t : State, step s = .next t →
    (t.trace = s.trace ∨
      (∃ out status, (s.seq.phase = .wren ∨ s.seq.phase = .write) ∧ t.frm = out ∧
        t.trace = s.trace ++ [.transfer out status]) ∨
      (∃ ms, s.seq.phase = .delay ∧ t.tmr = ms ∧ t.trace = s.trace ++ [.sleep ms]))
end

