-- ==== Sys2Proof/Laws/Decode.lean ====
section
/-! SUPPORT. Sys2Proof/Laws/Decode.lean: the address bytes of a word, and the lengths of frames. -/

namespace Sys2Proof

@[simp] theorem highByte_toNat (a : Word) : (highByte a).toNat = a.toNat / 256 := by
  have := a.isLt
  simp only [highByte, BitVec.toNat_ofNat]
  omega

@[simp] theorem lowByte_toNat (a : Word) : (lowByte a).toNat = a.toNat % 256 := by
  simp only [lowByte, BitVec.toNat_ofNat]
  omega

/-- The two bytes of an address make it up again. -/
@[simp] theorem joinBytes_high_low (a : Word) : joinBytes (highByte a) (lowByte a) = a := by
  have := a.isLt
  apply BitVec.eq_of_toNat_eq
  simp only [joinBytes, highByte_toNat, lowByte_toNat, BitVec.toNat_ofNat]
  omega

theorem joinBytes_toNat (hi lo : Byte) : (joinBytes hi lo).toNat = hi.toNat * 256 + lo.toNat := by
  have := hi.isLt
  have := lo.isLt
  simp only [joinBytes, BitVec.toNat_ofNat]
  omega

@[simp] theorem highByte_joinBytes (hi lo : Byte) : highByte (joinBytes hi lo) = hi := by
  have := lo.isLt
  apply BitVec.eq_of_toNat_eq
  rw [highByte_toNat, joinBytes_toNat]
  omega

@[simp] theorem lowByte_joinBytes (hi lo : Byte) : lowByte (joinBytes hi lo) = lo := by
  have := lo.isLt
  apply BitVec.eq_of_toNat_eq
  rw [lowByte_toNat, joinBytes_toNat]
  omega

/-- An address part has as many bytes as its width says (10_state R22). -/
@[simp] theorem encAddr_length (f : AddressFormat) (a : Word) : (encAddr f a).length = f.width := by
  cases f <;> rfl

@[simp] theorem frameA1_length (op lo : Byte) (data : List Byte) :
    (frameA1 op lo data).length = 2 + data.length := by simp [frameA1]; omega

@[simp] theorem frameA2b_length (op : Byte) (a : Word) (data : List Byte) :
    (frameA2b op a data).length = 3 + data.length := by
  simp [frameA2b, AddressFormat.width]; omega

@[simp] theorem frameA2l_length (op : Byte) (a : Word) (data : List Byte) :
    (frameA2l op a data).length = 3 + data.length := by
  simp [frameA2l, AddressFormat.width]; omega

/-- What a well-formed data part is. -/
theorem dataFits_iff (header : Nat) (data : List Byte) :
    dataFits header data = true ↔ 1 ≤ data.length ∧ header + data.length ≤ Config.frameMax := by
  simp [dataFits]

end Sys2Proof
end

