-- ==== Sys2Proof/Laws/Planner.lean ====
section
/-! SUPPORT. Sys2Proof/Laws/Planner.lean: what the loop of PLAN computes: one segment for each page touched. -/

namespace Sys2Proof.Machine

/-- The slice of the range `[S, E)` in page `q`. -/
def pageSlice (p S E q : Nat) : PageSegment where
  address := BitVec.ofNat 16 (max S (q * p))
  length := BitVec.ofNat 16 (min E ((q + 1) * p) - max S (q * p))
  sourceOffset := BitVec.ofNat 16 (max S (q * p) - S)

/-- Pages touched from address `a` to the end `E` of the range. -/
def pagesLeft (p a E : Nat) : Nat := if a < E then (E - 1) / p - a / p + 1 else 0

/-- Page arithmetic of one address: `a` lies in page `a / p`, which ends at the next multiple of `p`. -/
theorem page_bounds {p : Nat} (hp : 0 < p) (a : Nat) :
    a / p * p ≤ a ∧ a < (a / p + 1) * p ∧ (a / p + 1) * p = a / p * p + p := by
  have h1 := Nat.div_add_mod a p
  have h2 := Nat.mod_lt a hp
  rw [Nat.mul_comm] at h1
  have h3 : (a / p + 1) * p = a / p * p + p := Nat.succ_mul _ _
  omega

/-- The page of an address between a page's start and end. -/
theorem div_eq_of_page {p q a : Nat} (h1 : q * p ≤ a) (h2 : a < (q + 1) * p) : a / p = q := by
  have hp : 0 < p := by
    rcases Nat.eq_zero_or_pos p with rfl | h
    · simp at h2
    · exact h
  exact Nat.le_antisymm (Nat.lt_succ_iff.1 ((Nat.div_lt_iff_lt_mul hp).2 h2))
    ((Nat.le_div_iff_mul_le hp).2 h1)

/-- What the working values are before an iteration: `E` is the end of the range, `S` its start. -/
structure LoopInv (p S E : Nat) (w : PlanWork) : Prop where
  ends : w.currentAddress + w.remaining = E
  starts : S ≤ w.currentAddress
  offset : w.sourceOffset = w.currentAddress - S
  aligned : w.currentAddress = S ∨ w.currentAddress / p * p = w.currentAddress ∨ w.remaining = 0

/-- One iteration that the capacity admits: it stores the slice of its page and keeps the loop invariant. -/
theorem measure_place {p S E : Nat} (hp : 0 < p) {w : PlanWork} (h : LoopInv p S E w)
    (hr : w.remaining ≠ 0) :
    let w' := (w.measure p).place
    w'.segs = w.segs ++ [pageSlice p S E (w.currentAddress / p)] ∧
    LoopInv p S E w' ∧ w'.remaining < w.remaining ∧
    w'.nextPageBoundary = (w.currentAddress / p + 1) * p ∧
    w'.currentAddress = min E ((w.currentAddress / p + 1) * p) := by
  obtain ⟨he, hs, ho, ha⟩ := h
  obtain ⟨h1, h2, h3⟩ := page_bounds hp w.currentAddress
  have hmax : max S (w.currentAddress / p * p) = w.currentAddress := by
    rcases ha with ha | ha | ha
    · rw [← ha]; omega
    · omega
    · exact absurd ha hr
  have hlen : min w.remaining ((w.currentAddress / p + 1) * p - w.currentAddress) =
      min E ((w.currentAddress / p + 1) * p) - w.currentAddress := by omega
  have hcur : w.currentAddress + min w.remaining
      ((w.currentAddress / p + 1) * p - w.currentAddress) =
      min E ((w.currentAddress / p + 1) * p) := by omega
  refine ⟨?_, ⟨?_, ?_, ?_, ?_⟩, ?_, rfl, hcur⟩
  · simp [PlanWork.measure, PlanWork.place, pageSlice, hmax, hlen, ho]
  · simp only [PlanWork.measure, PlanWork.place]; omega
  · simp only [PlanWork.measure, PlanWork.place]; omega
  · simp only [PlanWork.measure, PlanWork.place]; omega
  · right
    simp only [PlanWork.measure, PlanWork.place, hcur]
    by_cases hE : (w.currentAddress / p + 1) * p ≤ E
    · rw [Nat.min_eq_right hE, Nat.mul_div_cancel _ hp]; exact .inl rfl
    · right; omega
  · simp only [PlanWork.measure, PlanWork.place]; omega

/-- The iteration takes one page off what is left. -/
theorem pagesLeft_step {p a E : Nat} (hp : 0 < p) (ha : a < E) :
    pagesLeft p a E = pagesLeft p (min E ((a / p + 1) * p)) E + 1 ∧
    (min E ((a / p + 1) * p) < E → min E ((a / p + 1) * p) / p = a / p + 1) := by
  obtain ⟨h1, h2, h3⟩ := page_bounds hp a
  by_cases hE : (a / p + 1) * p < E
  · have hm : min E ((a / p + 1) * p) = (a / p + 1) * p := by omega
    have hd : (a / p + 1) * p / p = a / p + 1 := Nat.mul_div_cancel _ hp
    have hq : a / p + 1 ≤ (E - 1) / p := (Nat.le_div_iff_mul_le hp).2 (by omega)
    refine ⟨?_, fun _ => by rw [hm, hd]⟩
    simp only [pagesLeft, ha, hm, hE, if_true, hd]
    omega
  · have hm : min E ((a / p + 1) * p) = E := by omega
    have hq : (E - 1) / p = a / p := div_eq_of_page (by omega) (by omega)
    refine ⟨?_, fun h => by omega⟩
    simp only [pagesLeft, ha, hm, if_true, Nat.lt_irrefl, if_false, hq]
    omega

/-- The slices of the pages from that of `a` on. -/
def slicesFrom (p S a E : Nat) : List PageSegment :=
  (List.range' (a / p) (pagesLeft p a E)).map (pageSlice p S E)

@[simp] theorem slicesFrom_length (p S a E : Nat) :
    (slicesFrom p S a E).length = pagesLeft p a E := by simp [slicesFrom]

theorem slicesFrom_step {p S a E : Nat} (hp : 0 < p) (ha : a < E) :
    slicesFrom p S a E =
      pageSlice p S E (a / p) :: slicesFrom p S (min E ((a / p + 1) * p)) E := by
  obtain ⟨h1, h2⟩ := pagesLeft_step hp ha
  unfold slicesFrom
  rw [h1, List.range'_succ, List.map_cons]
  by_cases hE : min E ((a / p + 1) * p) < E
  · rw [h2 hE]
  · simp [pagesLeft, hE]

/-- What the loop of PLAN ends with, from working values that meet the loop invariant: the slices of all pages
left when the buffer holds them, else the slots the buffer has (40_page_planner R122, R131, R133). -/
theorem planLoop_spec {p S E : Nat} (hp : 0 < p) (cap : Nat) :
    ∀ (fuel : Nat) (w : PlanWork), w.remaining ≤ fuel → LoopInv p S E w → w.segs.length ≤ cap →
      let all := w.segs ++ slicesFrom p S w.currentAddress E
      (all.length ≤ cap → ∃ w', planLoop p cap fuel w = .planned w' ∧ w'.segs = all ∧
        w'.remaining = 0 ∧ LoopInv p S E w' ∧
        (w.remaining ≠ 0 → w'.nextPageBoundary = ((E - 1) / p + 1) * p)) ∧
      (cap < all.length → ∃ w', planLoop p cap fuel w = .overfull w' ∧ w'.segs = all.take cap) := by
  intro fuel
  induction fuel with
  | zero =>
    intro w hf hi hc
    have h0 : w.remaining = 0 := by omega
    have hE : w.currentAddress = E := by have := hi.ends; omega
    have hn : slicesFrom p S w.currentAddress E = [] := by
      simp [slicesFrom, pagesLeft, hE]
    simp only [hn, List.append_nil]
    exact ⟨fun _ => ⟨w, rfl, rfl, h0, hi, fun h => absurd h0 h⟩, fun h => by omega⟩
  | succ fuel ih =>
    intro w hf hi hc
    by_cases h0 : w.remaining = 0
    · have hE : w.currentAddress = E := by have := hi.ends; omega
      have hn : slicesFrom p S w.currentAddress E = [] := by
        simp [slicesFrom, pagesLeft, hE]
      simp only [hn, List.append_nil, planLoop, h0, if_true]
      exact ⟨fun _ => ⟨w, rfl, rfl, h0, hi, fun h => absurd rfl h⟩, fun h => by omega⟩
    · have ha : w.currentAddress < E := by have := hi.ends; omega
      obtain ⟨hseg, hinv, hlt, hnpb, hcur⟩ := measure_place hp hi h0
      have hstep := slicesFrom_step (S := S) hp ha
      have hq : (w.measure p).place.remaining = 0 → (E - 1) / p = w.currentAddress / p := by
        intro hz
        obtain ⟨h1, h2, -⟩ := page_bounds hp w.currentAddress
        have hend := hinv.ends
        exact div_eq_of_page (by omega) (by omega)
      by_cases hfull : w.segs.length = cap
      · have hms : (w.measure p).segs = w.segs := rfl
        simp only [planLoop, h0, if_false, planStep, hms, hfull, if_true]
        refine ⟨fun h => ?_, fun _ => ⟨w.measure p, rfl, ?_⟩⟩
        · rw [hstep] at h; simp at h; omega
        · rw [hms, ← hfull]; simp
      · have hms : (w.measure p).segs = w.segs := rfl
        have hc' : (w.measure p).place.segs.length ≤ cap := by rw [hseg]; simp; omega
        obtain ⟨ih1, ih2⟩ := ih _ (by omega) hinv hc'
        have hall : (w.measure p).place.segs ++
            slicesFrom p S (w.measure p).place.currentAddress E =
            w.segs ++ slicesFrom p S w.currentAddress E := by
          rw [hseg, hcur, hstep]; simp
        rw [hall] at ih1 ih2
        simp only [planLoop, h0, if_false, planStep, hms, hfull]
        refine ⟨fun h => ?_, ih2⟩
        obtain ⟨w', e1, e2, e3, e4, e5⟩ := ih1 h
        refine ⟨w', e1, e2, e3, e4, fun _ => ?_⟩
        by_cases hz : (w.measure p).place.remaining = 0
        · have hlast : w' = (w.measure p).place := by
            cases fuel with
            | zero => simpa [planLoop] using e1.symm
            | succ n => simpa [planLoop, hz] using e1.symm
          rw [hlast, hnpb, hq hz]
        · exact e5 hz

/-- The loop invariant at the start of PLAN. -/
theorem planStart_inv (p L S : Nat) (old : Pln) : LoopInv p S (S + L) (planStart L S old) :=
  ⟨rfl, Nat.le_refl _, by simp [planStart], .inl rfl⟩

/-- What planning a request ends with (40_page_planner R122, R131). -/
theorem planRun_spec {p : Nat} (hp : 0 < p) (L S cap : Nat) (old : Pln) :
    let all := slicesFrom p S S (S + L)
    (all.length ≤ cap → ∃ w, planRun p L S cap old = .planned w ∧ w.segs = all ∧
      w.currentAddress = S + L ∧ w.remaining = 0 ∧ w.sourceOffset = L ∧
      (L ≠ 0 → w.nextPageBoundary = ((S + L - 1) / p + 1) * p)) ∧
    (cap < all.length → ∃ w, planRun p L S cap old = .overfull w ∧ w.segs = all.take cap) := by
  have h := planLoop_spec hp cap L (planStart L S old) (Nat.le_refl _) (planStart_inv p L S old)
    (Nat.zero_le _)
  have hs : (planStart L S old).segs = [] := rfl
  have ha : (planStart L S old).currentAddress = S := rfl
  rw [hs, ha, List.nil_append] at h
  refine ⟨fun hc => ?_, h.2⟩
  obtain ⟨w, h1, h2, h3, h4, h5⟩ := h.1 hc
  have he := h4.ends
  have ho := h4.offset
  exact ⟨w, h1, h2, by omega, h3, by omega, h5⟩

end Sys2Proof.Machine
end

