-- ==== Sys2Proof/Laws/Memory.lean ====
section
/-! SUPPORT. Sys2Proof/Laws/Memory.lean: the laws of the byte memory: read after write, the canonical form, and
what a run of bytes reads as. -/

namespace Sys2Proof.Machine

/-! ## Reading one byte -/

@[simp] theorem Memory.read_nil (a : Nat) : Memory.read [] a = none := rfl

theorem Memory.read_cons (k : Nat) (b : Byte) (m : Memory) (a : Nat) :
    Memory.read ((k, b) :: m) a = if k = a then some b else Memory.read m a := rfl

/-- A read after a write: the new byte at the address written, the old one elsewhere. -/
theorem Memory.read_write (m : Memory) (a : Nat) (b : Byte) (x : Nat) :
    Memory.read (Memory.write m a b) x = if a = x then some b else Memory.read m x := by
  induction m with
  | nil => simp [Memory.write, Memory.read_cons]
  | cons cell m ih =>
    obtain ⟨k, c⟩ := cell
    by_cases h1 : a < k
    · simp [Memory.write, h1, Memory.read_cons]
    · by_cases h2 : a = k
      · subst h2
        by_cases hx : a = x <;> simp [Memory.write, Memory.read_cons, hx]
      · simp only [Memory.write, h1, h2, if_false, Memory.read_cons, ih]
        by_cases hx : a = x
        · subst hx
          simp [Ne.symm h2]
        · simp [hx]

theorem Memory.read_write_same (m : Memory) (a : Nat) (b : Byte) :
    Memory.read (Memory.write m a b) a = some b := by simp [Memory.read_write]

theorem Memory.read_write_other (m : Memory) {a x : Nat} (b : Byte) (h : a ≠ x) :
    Memory.read (Memory.write m a b) x = Memory.read m x := by simp [Memory.read_write, h]

/-- A run of bytes written from `a` reads back by index; everything else is as before. -/
theorem Memory.read_writeBytes (bs : List Byte) :
    ∀ (m : Memory) (a x : Nat), Memory.read (Memory.writeBytes m a bs) x =
      if a ≤ x ∧ x < a + bs.length then bs[x - a]? else Memory.read m x := by
  induction bs with
  | nil => intro m a x; simp [Memory.writeBytes]
  | cons b bs ih =>
    intro m a x
    simp only [Memory.writeBytes, ih, Memory.read_write, List.length_cons]
    by_cases h1 : a = x
    · subst h1; simp
    · by_cases h2 : a + 1 ≤ x ∧ x < a + 1 + bs.length
      · have h3 : a ≤ x ∧ x < a + (bs.length + 1) := by omega
        have h4 : x - a = (x - (a + 1)) + 1 := by omega
        simp [h2, h3, h4]
      · have h3 : ¬ (a ≤ x ∧ x < a + (bs.length + 1)) := by omega
        rw [if_neg h2, if_neg h3, if_neg h1]

/-! ## The canonical form -/

/-- Every address of `m` lies above `k`. -/
theorem Memory.wf_cons (k : Nat) (b : Byte) (m : Memory) :
    Memory.wf ((k, b) :: m) = true ↔
      (∀ c rest, m = c :: rest → k < c.1) ∧ Memory.wf m = true := by
  cases m with
  | nil => simp [Memory.wf]
  | cons c m => simp [Memory.wf]

/-- Writing a byte keeps the canonical form. -/
theorem Memory.write_wf (m : Memory) (a : Nat) (b : Byte) (h : Memory.wf m = true) :
    Memory.wf (Memory.write m a b) = true := by
  induction m with
  | nil => rfl
  | cons cell m ih =>
    obtain ⟨k, c⟩ := cell
    obtain ⟨hk, hm⟩ := (Memory.wf_cons k c m).1 h
    by_cases h1 : a < k
    · simp only [Memory.write, h1, if_true]
      exact (Memory.wf_cons _ _ _).2 ⟨by rintro c' rest ⟨rfl, rfl⟩; exact h1, h⟩
    · by_cases h2 : a = k
      · subst h2
        simp only [Memory.write, h1, if_true, if_false]
        exact (Memory.wf_cons _ _ _).2 ⟨hk, hm⟩
      · simp only [Memory.write, h1, h2, if_false]
        refine (Memory.wf_cons _ _ _).2 ⟨?_, ih hm⟩
        intro c' rest he
        cases m with
        | nil => simp [Memory.write] at he; obtain ⟨rfl, -⟩ := he; simp; omega
        | cons d m =>
          obtain ⟨k', c''⟩ := d
          have hkk : k < k' := hk _ _ rfl
          simp only [Memory.write] at he
          split at he
          · simp at he; obtain ⟨rfl, -⟩ := he; simp; omega
          · split at he
            · simp at he; obtain ⟨rfl, -⟩ := he; simp; omega
            · simp at he; obtain ⟨rfl, -⟩ := he; exact hkk

/-- Writing a run of bytes keeps the canonical form. -/
theorem Memory.writeBytes_wf (bs : List Byte) :
    ∀ (m : Memory) (a : Nat), Memory.wf m = true → Memory.wf (Memory.writeBytes m a bs) = true := by
  induction bs with
  | nil => intro m a h; exact h
  | cons b bs ih => intro m a h; exact ih _ _ (Memory.write_wf m a b h)

/-- The memory after reset has the canonical form. -/
theorem Memory.reset_wf : Memory.wf State.reset.pay.cells = true := rfl

/-- Writing above every listed address appends. -/
theorem Memory.write_append (m : Memory) (a : Nat) (b : Byte) (h : ∀ c ∈ m, c.1 < a) :
    Memory.write m a b = m ++ [(a, b)] := by
  induction m with
  | nil => rfl
  | cons cell m ih =>
    obtain ⟨k, c⟩ := cell
    have hk : k < a := h (k, c) (by simp)
    have h1 : ¬ a < k := by omega
    have h2 : a ≠ k := by omega
    simp only [Memory.write, h1, h2, if_false, List.cons_append]
    rw [ih fun c' hc => h c' (by simp [hc])]

/-- A loaded run lists exactly the addresses it covers, in order. -/
theorem Memory.writeBytes_addresses (bs : List Byte) :
    ∀ (m : Memory) (a : Nat), (∀ c ∈ m, c.1 < a) →
      (Memory.writeBytes m a bs).map Prod.fst = m.map Prod.fst ++ List.range' a bs.length := by
  induction bs with
  | nil => intro m a _; simp [Memory.writeBytes]
  | cons b bs ih =>
    intro m a h
    have h' : ∀ c ∈ m ++ [(a, b)], c.1 < a + 1 := by
      intro c hc
      rcases List.mem_append.1 hc with hc | hc
      · exact Nat.lt_succ_of_lt (h c hc)
      · simp at hc; simp [hc]
    simp only [Memory.writeBytes, Memory.write_append m a b h, ih _ _ h']
    simp [List.range'_succ]

/-! ## Runs of bytes -/

/-- A run that reads has the length asked for. -/
theorem Memory.readBytes_length (m : Memory) :
    ∀ (n a : Nat) (bs : List Byte), Memory.readBytes m a n = some bs → bs.length = n := by
  intro n
  induction n with
  | zero => intro a bs h; simp [Memory.readBytes] at h; simp [← h]
  | succ n ih =>
    intro a bs h
    simp only [Memory.readBytes] at h
    split at h
    · rename_i b bs' hb hbs
      cases h
      simp [ih _ _ hbs]
    · cases h

/-- A run reads exactly when each of its bytes holds a value, and then gives them in order. -/
theorem Memory.readBytes_eq_some (m : Memory) :
    ∀ (n a : Nat) (bs : List Byte), Memory.readBytes m a n = some bs ↔
      bs.length = n ∧ ∀ i, i < n → Memory.read m (a + i) = bs[i]? := by
  intro n
  induction n with
  | zero => intro a bs; cases bs <;> simp [Memory.readBytes]
  | succ n ih =>
    intro a bs
    constructor
    · intro h
      refine ⟨Memory.readBytes_length m _ _ _ h, ?_⟩
      simp only [Memory.readBytes] at h
      split at h
      · rename_i b bs' hb hbs
        cases h
        intro i hi
        cases i with
        | zero => simpa using hb
        | succ i =>
          have := ((ih _ _).1 hbs).2 i (by omega)
          simpa [Nat.add_assoc, Nat.add_comm 1 i] using this
      · cases h
    · rintro ⟨hl, hr⟩
      cases bs with
      | nil => simp at hl
      | cons b bs =>
        have h0 : Memory.read m a = some b := by simpa using hr 0 (by omega)
        have h1 : Memory.readBytes m (a + 1) n = some bs := by
          refine (ih _ _).2 ⟨by simpa using hl, fun i hi => ?_⟩
          have := hr (i + 1) (by omega)
          simpa [Nat.add_assoc, Nat.add_comm 1 i] using this
        simp [Memory.readBytes, h0, h1]

/-- A run reads when each of its bytes holds a value. -/
theorem Memory.readBytes_isSome (m : Memory) :
    ∀ (n a : Nat), (∀ i, i < n → Memory.read m (a + i) ≠ none) →
      ∃ bs, Memory.readBytes m a n = some bs := by
  intro n
  induction n with
  | zero => intro a _; exact ⟨[], rfl⟩
  | succ n ih =>
    intro a h
    obtain ⟨bs, hbs⟩ := ih (a + 1) fun i hi => by
      have := h (i + 1) (by omega); rwa [Nat.add_assoc, Nat.add_comm 1 i]
    obtain ⟨b, hb⟩ := Option.ne_none_iff_exists'.1 (h 0 (by omega))
    exact ⟨b :: bs, by simp at hb; simp [Memory.readBytes, hb, hbs]⟩

/-- `MemRead` says when it is defined and what it gives (20_memory R62). -/
theorem Payload.memRead_eq_some (pay : Payload) (addr n : Nat) (bs : List Byte) :
    pay.memRead addr n = some bs ↔
      addr + n ≤ pay.size ∧ Memory.readBytes pay.cells addr n = some bs := by
  unfold Payload.memRead
  by_cases h : addr + n ≤ pay.size <;> simp [h]

theorem Payload.memRead_length {pay : Payload} {addr n : Nat} {bs : List Byte}
    (h : pay.memRead addr n = some bs) : bs.length = n := by
  obtain ⟨_, hb⟩ := (pay.memRead_eq_some addr n bs).1 h
  exact Memory.readBytes_length _ _ _ _ hb

/-- Inside a run that reads, every shorter run reads as the slice of it. -/
theorem Payload.memRead_slice {pay : Payload} {n : Nat} {bs : List Byte} (h : pay.memRead 0 n = some bs)
    {a k : Nat} (hk : a + k ≤ n) : pay.memRead a k = some ((bs.drop a).take k) := by
  obtain ⟨hn, hb⟩ := (pay.memRead_eq_some 0 n bs).1 h
  obtain ⟨hl, hr⟩ := (Memory.readBytes_eq_some _ _ _ _).1 hb
  refine (pay.memRead_eq_some a k _).2 ⟨by omega, ?_⟩
  refine (Memory.readBytes_eq_some _ _ _ _).2 ⟨by simp; omega, fun i hi => ?_⟩
  have := hr (a + i) (by omega)
  rw [Nat.zero_add] at this
  rw [this, List.getElem?_take, if_pos hi, List.getElem?_drop]

end Sys2Proof.Machine
end

