-- ==== Sys2Proof/Laws/State.lean ====
section
/-! SUPPORT. Sys2Proof/Laws/State.lean: what each update leaves in each field, so that no proof unfolds a
record update. -/

namespace Sys2Proof.Machine

/-! ### hostReset (the values of `PLN`, `FRM` and `TMR` are no one's to rely on: log 3) -/

@[simp] theorem hostReset_cfg (s : State) : (hostReset s).cfg = State.reset.cfg := rfl
@[simp] theorem hostReset_req (s : State) : (hostReset s).req = State.reset.req := rfl
@[simp] theorem hostReset_pay (s : State) : (hostReset s).pay = State.reset.pay := rfl
@[simp] theorem hostReset_written (s : State) : (hostReset s).written = State.reset.written := rfl
@[simp] theorem hostReset_plb (s : State) : (hostReset s).plb = ⟨[], s.plb.cap, false⟩ := rfl
@[simp] theorem hostReset_seq (s : State) : (hostReset s).seq = ⟨0, .idle⟩ := rfl
@[simp] theorem hostReset_result (s : State) : (hostReset s).result = .none := rfl
@[simp] theorem hostReset_host (s : State) : (hostReset s).host = s.host := rfl
@[simp] theorem hostReset_transport (s : State) : (hostReset s).transport = s.transport := rfl
@[simp] theorem hostReset_wakes (s : State) : (hostReset s).wakes = s.wakes := rfl
@[simp] theorem hostReset_trace (s : State) : (hostReset s).trace = s.trace := rfl

/-! ### setCfg -/

@[simp] theorem State.setCfg_cfg (s : State) (v : Cfg) : (s.setCfg v).cfg = v := rfl
@[simp] theorem State.setCfg_req (s : State) (v : Cfg) : (s.setCfg v).req = s.req := rfl
@[simp] theorem State.setCfg_pay (s : State) (v : Cfg) : (s.setCfg v).pay = s.pay := rfl
@[simp] theorem State.setCfg_written (s : State) (v : Cfg) : (s.setCfg v).written = s.written := rfl
@[simp] theorem State.setCfg_pln (s : State) (v : Cfg) : (s.setCfg v).pln = s.pln := rfl
@[simp] theorem State.setCfg_plb (s : State) (v : Cfg) : (s.setCfg v).plb = s.plb := rfl
@[simp] theorem State.setCfg_seq (s : State) (v : Cfg) : (s.setCfg v).seq = s.seq := rfl
@[simp] theorem State.setCfg_result (s : State) (v : Cfg) : (s.setCfg v).result = s.result := rfl
@[simp] theorem State.setCfg_frm (s : State) (v : Cfg) : (s.setCfg v).frm = s.frm := rfl
@[simp] theorem State.setCfg_tmr (s : State) (v : Cfg) : (s.setCfg v).tmr = s.tmr := rfl
@[simp] theorem State.setCfg_host (s : State) (v : Cfg) : (s.setCfg v).host = s.host := rfl
@[simp] theorem State.setCfg_transport (s : State) (v : Cfg) : (s.setCfg v).transport = s.transport := rfl
@[simp] theorem State.setCfg_wakes (s : State) (v : Cfg) : (s.setCfg v).wakes = s.wakes := rfl
@[simp] theorem State.setCfg_trace (s : State) (v : Cfg) : (s.setCfg v).trace = s.trace := rfl

/-! ### setReq -/

@[simp] theorem State.setReq_cfg (s : State) (v : Req) : (s.setReq v).cfg = s.cfg := rfl
@[simp] theorem State.setReq_req (s : State) (v : Req) : (s.setReq v).req = v := rfl
@[simp] theorem State.setReq_pay (s : State) (v : Req) : (s.setReq v).pay = s.pay := rfl
@[simp] theorem State.setReq_written (s : State) (v : Req) : (s.setReq v).written = s.written := rfl
@[simp] theorem State.setReq_pln (s : State) (v : Req) : (s.setReq v).pln = s.pln := rfl
@[simp] theorem State.setReq_plb (s : State) (v : Req) : (s.setReq v).plb = s.plb := rfl
@[simp] theorem State.setReq_seq (s : State) (v : Req) : (s.setReq v).seq = s.seq := rfl
@[simp] theorem State.setReq_result (s : State) (v : Req) : (s.setReq v).result = s.result := rfl
@[simp] theorem State.setReq_frm (s : State) (v : Req) : (s.setReq v).frm = s.frm := rfl
@[simp] theorem State.setReq_tmr (s : State) (v : Req) : (s.setReq v).tmr = s.tmr := rfl
@[simp] theorem State.setReq_host (s : State) (v : Req) : (s.setReq v).host = s.host := rfl
@[simp] theorem State.setReq_transport (s : State) (v : Req) : (s.setReq v).transport = s.transport := rfl
@[simp] theorem State.setReq_wakes (s : State) (v : Req) : (s.setReq v).wakes = s.wakes := rfl
@[simp] theorem State.setReq_trace (s : State) (v : Req) : (s.setReq v).trace = s.trace := rfl

/-! ### setPay -/

@[simp] theorem State.setPay_cfg (s : State) (v : Payload) : (s.setPay v).cfg = s.cfg := rfl
@[simp] theorem State.setPay_req (s : State) (v : Payload) : (s.setPay v).req = s.req := rfl
@[simp] theorem State.setPay_pay (s : State) (v : Payload) : (s.setPay v).pay = v := rfl
@[simp] theorem State.setPay_written (s : State) (v : Payload) : (s.setPay v).written = s.written := rfl
@[simp] theorem State.setPay_pln (s : State) (v : Payload) : (s.setPay v).pln = s.pln := rfl
@[simp] theorem State.setPay_plb (s : State) (v : Payload) : (s.setPay v).plb = s.plb := rfl
@[simp] theorem State.setPay_seq (s : State) (v : Payload) : (s.setPay v).seq = s.seq := rfl
@[simp] theorem State.setPay_result (s : State) (v : Payload) : (s.setPay v).result = s.result := rfl
@[simp] theorem State.setPay_frm (s : State) (v : Payload) : (s.setPay v).frm = s.frm := rfl
@[simp] theorem State.setPay_tmr (s : State) (v : Payload) : (s.setPay v).tmr = s.tmr := rfl
@[simp] theorem State.setPay_host (s : State) (v : Payload) : (s.setPay v).host = s.host := rfl
@[simp] theorem State.setPay_transport (s : State) (v : Payload) : (s.setPay v).transport = s.transport := rfl
@[simp] theorem State.setPay_wakes (s : State) (v : Payload) : (s.setPay v).wakes = s.wakes := rfl
@[simp] theorem State.setPay_trace (s : State) (v : Payload) : (s.setPay v).trace = s.trace := rfl

/-! ### setWritten -/

@[simp] theorem State.setWritten_cfg (s : State) (v : Written) : (s.setWritten v).cfg = s.cfg := rfl
@[simp] theorem State.setWritten_req (s : State) (v : Written) : (s.setWritten v).req = s.req := rfl
@[simp] theorem State.setWritten_pay (s : State) (v : Written) : (s.setWritten v).pay = s.pay := rfl
@[simp] theorem State.setWritten_written (s : State) (v : Written) : (s.setWritten v).written = v := rfl
@[simp] theorem State.setWritten_pln (s : State) (v : Written) : (s.setWritten v).pln = s.pln := rfl
@[simp] theorem State.setWritten_plb (s : State) (v : Written) : (s.setWritten v).plb = s.plb := rfl
@[simp] theorem State.setWritten_seq (s : State) (v : Written) : (s.setWritten v).seq = s.seq := rfl
@[simp] theorem State.setWritten_result (s : State) (v : Written) : (s.setWritten v).result = s.result := rfl
@[simp] theorem State.setWritten_frm (s : State) (v : Written) : (s.setWritten v).frm = s.frm := rfl
@[simp] theorem State.setWritten_tmr (s : State) (v : Written) : (s.setWritten v).tmr = s.tmr := rfl
@[simp] theorem State.setWritten_host (s : State) (v : Written) : (s.setWritten v).host = s.host := rfl
@[simp] theorem State.setWritten_transport (s : State) (v : Written) : (s.setWritten v).transport = s.transport := rfl
@[simp] theorem State.setWritten_wakes (s : State) (v : Written) : (s.setWritten v).wakes = s.wakes := rfl
@[simp] theorem State.setWritten_trace (s : State) (v : Written) : (s.setWritten v).trace = s.trace := rfl

/-! ### setPln -/

@[simp] theorem State.setPln_cfg (s : State) (v : Pln) : (s.setPln v).cfg = s.cfg := rfl
@[simp] theorem State.setPln_req (s : State) (v : Pln) : (s.setPln v).req = s.req := rfl
@[simp] theorem State.setPln_pay (s : State) (v : Pln) : (s.setPln v).pay = s.pay := rfl
@[simp] theorem State.setPln_written (s : State) (v : Pln) : (s.setPln v).written = s.written := rfl
@[simp] theorem State.setPln_pln (s : State) (v : Pln) : (s.setPln v).pln = v := rfl
@[simp] theorem State.setPln_plb (s : State) (v : Pln) : (s.setPln v).plb = s.plb := rfl
@[simp] theorem State.setPln_seq (s : State) (v : Pln) : (s.setPln v).seq = s.seq := rfl
@[simp] theorem State.setPln_result (s : State) (v : Pln) : (s.setPln v).result = s.result := rfl
@[simp] theorem State.setPln_frm (s : State) (v : Pln) : (s.setPln v).frm = s.frm := rfl
@[simp] theorem State.setPln_tmr (s : State) (v : Pln) : (s.setPln v).tmr = s.tmr := rfl
@[simp] theorem State.setPln_host (s : State) (v : Pln) : (s.setPln v).host = s.host := rfl
@[simp] theorem State.setPln_transport (s : State) (v : Pln) : (s.setPln v).transport = s.transport := rfl
@[simp] theorem State.setPln_wakes (s : State) (v : Pln) : (s.setPln v).wakes = s.wakes := rfl
@[simp] theorem State.setPln_trace (s : State) (v : Pln) : (s.setPln v).trace = s.trace := rfl

/-! ### setPlb -/

@[simp] theorem State.setPlb_cfg (s : State) (v : Plb) : (s.setPlb v).cfg = s.cfg := rfl
@[simp] theorem State.setPlb_req (s : State) (v : Plb) : (s.setPlb v).req = s.req := rfl
@[simp] theorem State.setPlb_pay (s : State) (v : Plb) : (s.setPlb v).pay = s.pay := rfl
@[simp] theorem State.setPlb_written (s : State) (v : Plb) : (s.setPlb v).written = s.written := rfl
@[simp] theorem State.setPlb_pln (s : State) (v : Plb) : (s.setPlb v).pln = s.pln := rfl
@[simp] theorem State.setPlb_plb (s : State) (v : Plb) : (s.setPlb v).plb = v := rfl
@[simp] theorem State.setPlb_seq (s : State) (v : Plb) : (s.setPlb v).seq = s.seq := rfl
@[simp] theorem State.setPlb_result (s : State) (v : Plb) : (s.setPlb v).result = s.result := rfl
@[simp] theorem State.setPlb_frm (s : State) (v : Plb) : (s.setPlb v).frm = s.frm := rfl
@[simp] theorem State.setPlb_tmr (s : State) (v : Plb) : (s.setPlb v).tmr = s.tmr := rfl
@[simp] theorem State.setPlb_host (s : State) (v : Plb) : (s.setPlb v).host = s.host := rfl
@[simp] theorem State.setPlb_transport (s : State) (v : Plb) : (s.setPlb v).transport = s.transport := rfl
@[simp] theorem State.setPlb_wakes (s : State) (v : Plb) : (s.setPlb v).wakes = s.wakes := rfl
@[simp] theorem State.setPlb_trace (s : State) (v : Plb) : (s.setPlb v).trace = s.trace := rfl

/-! ### setSeq -/

@[simp] theorem State.setSeq_cfg (s : State) (v : Position) : (s.setSeq v).cfg = s.cfg := rfl
@[simp] theorem State.setSeq_req (s : State) (v : Position) : (s.setSeq v).req = s.req := rfl
@[simp] theorem State.setSeq_pay (s : State) (v : Position) : (s.setSeq v).pay = s.pay := rfl
@[simp] theorem State.setSeq_written (s : State) (v : Position) : (s.setSeq v).written = s.written := rfl
@[simp] theorem State.setSeq_pln (s : State) (v : Position) : (s.setSeq v).pln = s.pln := rfl
@[simp] theorem State.setSeq_plb (s : State) (v : Position) : (s.setSeq v).plb = s.plb := rfl
@[simp] theorem State.setSeq_seq (s : State) (v : Position) : (s.setSeq v).seq = v := rfl
@[simp] theorem State.setSeq_result (s : State) (v : Position) : (s.setSeq v).result = s.result := rfl
@[simp] theorem State.setSeq_frm (s : State) (v : Position) : (s.setSeq v).frm = s.frm := rfl
@[simp] theorem State.setSeq_tmr (s : State) (v : Position) : (s.setSeq v).tmr = s.tmr := rfl
@[simp] theorem State.setSeq_host (s : State) (v : Position) : (s.setSeq v).host = s.host := rfl
@[simp] theorem State.setSeq_transport (s : State) (v : Position) : (s.setSeq v).transport = s.transport := rfl
@[simp] theorem State.setSeq_wakes (s : State) (v : Position) : (s.setSeq v).wakes = s.wakes := rfl
@[simp] theorem State.setSeq_trace (s : State) (v : Position) : (s.setSeq v).trace = s.trace := rfl

/-! ### setResult -/

@[simp] theorem State.setResult_cfg (s : State) (v : Result) : (s.setResult v).cfg = s.cfg := rfl
@[simp] theorem State.setResult_req (s : State) (v : Result) : (s.setResult v).req = s.req := rfl
@[simp] theorem State.setResult_pay (s : State) (v : Result) : (s.setResult v).pay = s.pay := rfl
@[simp] theorem State.setResult_written (s : State) (v : Result) : (s.setResult v).written = s.written := rfl
@[simp] theorem State.setResult_pln (s : State) (v : Result) : (s.setResult v).pln = s.pln := rfl
@[simp] theorem State.setResult_plb (s : State) (v : Result) : (s.setResult v).plb = s.plb := rfl
@[simp] theorem State.setResult_seq (s : State) (v : Result) : (s.setResult v).seq = s.seq := rfl
@[simp] theorem State.setResult_result (s : State) (v : Result) : (s.setResult v).result = v := rfl
@[simp] theorem State.setResult_frm (s : State) (v : Result) : (s.setResult v).frm = s.frm := rfl
@[simp] theorem State.setResult_tmr (s : State) (v : Result) : (s.setResult v).tmr = s.tmr := rfl
@[simp] theorem State.setResult_host (s : State) (v : Result) : (s.setResult v).host = s.host := rfl
@[simp] theorem State.setResult_transport (s : State) (v : Result) : (s.setResult v).transport = s.transport := rfl
@[simp] theorem State.setResult_wakes (s : State) (v : Result) : (s.setResult v).wakes = s.wakes := rfl
@[simp] theorem State.setResult_trace (s : State) (v : Result) : (s.setResult v).trace = s.trace := rfl

/-! ### setFrm -/

@[simp] theorem State.setFrm_cfg (s : State) (v : List Byte) : (s.setFrm v).cfg = s.cfg := rfl
@[simp] theorem State.setFrm_req (s : State) (v : List Byte) : (s.setFrm v).req = s.req := rfl
@[simp] theorem State.setFrm_pay (s : State) (v : List Byte) : (s.setFrm v).pay = s.pay := rfl
@[simp] theorem State.setFrm_written (s : State) (v : List Byte) : (s.setFrm v).written = s.written := rfl
@[simp] theorem State.setFrm_pln (s : State) (v : List Byte) : (s.setFrm v).pln = s.pln := rfl
@[simp] theorem State.setFrm_plb (s : State) (v : List Byte) : (s.setFrm v).plb = s.plb := rfl
@[simp] theorem State.setFrm_seq (s : State) (v : List Byte) : (s.setFrm v).seq = s.seq := rfl
@[simp] theorem State.setFrm_result (s : State) (v : List Byte) : (s.setFrm v).result = s.result := rfl
@[simp] theorem State.setFrm_frm (s : State) (v : List Byte) : (s.setFrm v).frm = v := rfl
@[simp] theorem State.setFrm_tmr (s : State) (v : List Byte) : (s.setFrm v).tmr = s.tmr := rfl
@[simp] theorem State.setFrm_host (s : State) (v : List Byte) : (s.setFrm v).host = s.host := rfl
@[simp] theorem State.setFrm_transport (s : State) (v : List Byte) : (s.setFrm v).transport = s.transport := rfl
@[simp] theorem State.setFrm_wakes (s : State) (v : List Byte) : (s.setFrm v).wakes = s.wakes := rfl
@[simp] theorem State.setFrm_trace (s : State) (v : List Byte) : (s.setFrm v).trace = s.trace := rfl

/-! ### setTmr -/

@[simp] theorem State.setTmr_cfg (s : State) (v : Millis) : (s.setTmr v).cfg = s.cfg := rfl
@[simp] theorem State.setTmr_req (s : State) (v : Millis) : (s.setTmr v).req = s.req := rfl
@[simp] theorem State.setTmr_pay (s : State) (v : Millis) : (s.setTmr v).pay = s.pay := rfl
@[simp] theorem State.setTmr_written (s : State) (v : Millis) : (s.setTmr v).written = s.written := rfl
@[simp] theorem State.setTmr_pln (s : State) (v : Millis) : (s.setTmr v).pln = s.pln := rfl
@[simp] theorem State.setTmr_plb (s : State) (v : Millis) : (s.setTmr v).plb = s.plb := rfl
@[simp] theorem State.setTmr_seq (s : State) (v : Millis) : (s.setTmr v).seq = s.seq := rfl
@[simp] theorem State.setTmr_result (s : State) (v : Millis) : (s.setTmr v).result = s.result := rfl
@[simp] theorem State.setTmr_frm (s : State) (v : Millis) : (s.setTmr v).frm = s.frm := rfl
@[simp] theorem State.setTmr_tmr (s : State) (v : Millis) : (s.setTmr v).tmr = v := rfl
@[simp] theorem State.setTmr_host (s : State) (v : Millis) : (s.setTmr v).host = s.host := rfl
@[simp] theorem State.setTmr_transport (s : State) (v : Millis) : (s.setTmr v).transport = s.transport := rfl
@[simp] theorem State.setTmr_wakes (s : State) (v : Millis) : (s.setTmr v).wakes = s.wakes := rfl
@[simp] theorem State.setTmr_trace (s : State) (v : Millis) : (s.setTmr v).trace = s.trace := rfl

/-! ### setHost -/

@[simp] theorem State.setHost_cfg (s : State) (v : List HostMove) : (s.setHost v).cfg = s.cfg := rfl
@[simp] theorem State.setHost_req (s : State) (v : List HostMove) : (s.setHost v).req = s.req := rfl
@[simp] theorem State.setHost_pay (s : State) (v : List HostMove) : (s.setHost v).pay = s.pay := rfl
@[simp] theorem State.setHost_written (s : State) (v : List HostMove) : (s.setHost v).written = s.written := rfl
@[simp] theorem State.setHost_pln (s : State) (v : List HostMove) : (s.setHost v).pln = s.pln := rfl
@[simp] theorem State.setHost_plb (s : State) (v : List HostMove) : (s.setHost v).plb = s.plb := rfl
@[simp] theorem State.setHost_seq (s : State) (v : List HostMove) : (s.setHost v).seq = s.seq := rfl
@[simp] theorem State.setHost_result (s : State) (v : List HostMove) : (s.setHost v).result = s.result := rfl
@[simp] theorem State.setHost_frm (s : State) (v : List HostMove) : (s.setHost v).frm = s.frm := rfl
@[simp] theorem State.setHost_tmr (s : State) (v : List HostMove) : (s.setHost v).tmr = s.tmr := rfl
@[simp] theorem State.setHost_host (s : State) (v : List HostMove) : (s.setHost v).host = v := rfl
@[simp] theorem State.setHost_transport (s : State) (v : List HostMove) : (s.setHost v).transport = s.transport := rfl
@[simp] theorem State.setHost_wakes (s : State) (v : List HostMove) : (s.setHost v).wakes = s.wakes := rfl
@[simp] theorem State.setHost_trace (s : State) (v : List HostMove) : (s.setHost v).trace = s.trace := rfl

/-! ### setTransport -/

@[simp] theorem State.setTransport_cfg (s : State) (v : List Response) : (s.setTransport v).cfg = s.cfg := rfl
@[simp] theorem State.setTransport_req (s : State) (v : List Response) : (s.setTransport v).req = s.req := rfl
@[simp] theorem State.setTransport_pay (s : State) (v : List Response) : (s.setTransport v).pay = s.pay := rfl
@[simp] theorem State.setTransport_written (s : State) (v : List Response) : (s.setTransport v).written = s.written := rfl
@[simp] theorem State.setTransport_pln (s : State) (v : List Response) : (s.setTransport v).pln = s.pln := rfl
@[simp] theorem State.setTransport_plb (s : State) (v : List Response) : (s.setTransport v).plb = s.plb := rfl
@[simp] theorem State.setTransport_seq (s : State) (v : List Response) : (s.setTransport v).seq = s.seq := rfl
@[simp] theorem State.setTransport_result (s : State) (v : List Response) : (s.setTransport v).result = s.result := rfl
@[simp] theorem State.setTransport_frm (s : State) (v : List Response) : (s.setTransport v).frm = s.frm := rfl
@[simp] theorem State.setTransport_tmr (s : State) (v : List Response) : (s.setTransport v).tmr = s.tmr := rfl
@[simp] theorem State.setTransport_host (s : State) (v : List Response) : (s.setTransport v).host = s.host := rfl
@[simp] theorem State.setTransport_transport (s : State) (v : List Response) : (s.setTransport v).transport = v := rfl
@[simp] theorem State.setTransport_wakes (s : State) (v : List Response) : (s.setTransport v).wakes = s.wakes := rfl
@[simp] theorem State.setTransport_trace (s : State) (v : List Response) : (s.setTransport v).trace = s.trace := rfl

/-! ### setWakes -/

@[simp] theorem State.setWakes_cfg (s : State) (v : Nat) : (s.setWakes v).cfg = s.cfg := rfl
@[simp] theorem State.setWakes_req (s : State) (v : Nat) : (s.setWakes v).req = s.req := rfl
@[simp] theorem State.setWakes_pay (s : State) (v : Nat) : (s.setWakes v).pay = s.pay := rfl
@[simp] theorem State.setWakes_written (s : State) (v : Nat) : (s.setWakes v).written = s.written := rfl
@[simp] theorem State.setWakes_pln (s : State) (v : Nat) : (s.setWakes v).pln = s.pln := rfl
@[simp] theorem State.setWakes_plb (s : State) (v : Nat) : (s.setWakes v).plb = s.plb := rfl
@[simp] theorem State.setWakes_seq (s : State) (v : Nat) : (s.setWakes v).seq = s.seq := rfl
@[simp] theorem State.setWakes_result (s : State) (v : Nat) : (s.setWakes v).result = s.result := rfl
@[simp] theorem State.setWakes_frm (s : State) (v : Nat) : (s.setWakes v).frm = s.frm := rfl
@[simp] theorem State.setWakes_tmr (s : State) (v : Nat) : (s.setWakes v).tmr = s.tmr := rfl
@[simp] theorem State.setWakes_host (s : State) (v : Nat) : (s.setWakes v).host = s.host := rfl
@[simp] theorem State.setWakes_transport (s : State) (v : Nat) : (s.setWakes v).transport = s.transport := rfl
@[simp] theorem State.setWakes_wakes (s : State) (v : Nat) : (s.setWakes v).wakes = v := rfl
@[simp] theorem State.setWakes_trace (s : State) (v : Nat) : (s.setWakes v).trace = s.trace := rfl

/-! ### setTrace -/

@[simp] theorem State.setTrace_cfg (s : State) (v : List Event) : (s.setTrace v).cfg = s.cfg := rfl
@[simp] theorem State.setTrace_req (s : State) (v : List Event) : (s.setTrace v).req = s.req := rfl
@[simp] theorem State.setTrace_pay (s : State) (v : List Event) : (s.setTrace v).pay = s.pay := rfl
@[simp] theorem State.setTrace_written (s : State) (v : List Event) : (s.setTrace v).written = s.written := rfl
@[simp] theorem State.setTrace_pln (s : State) (v : List Event) : (s.setTrace v).pln = s.pln := rfl
@[simp] theorem State.setTrace_plb (s : State) (v : List Event) : (s.setTrace v).plb = s.plb := rfl
@[simp] theorem State.setTrace_seq (s : State) (v : List Event) : (s.setTrace v).seq = s.seq := rfl
@[simp] theorem State.setTrace_result (s : State) (v : List Event) : (s.setTrace v).result = s.result := rfl
@[simp] theorem State.setTrace_frm (s : State) (v : List Event) : (s.setTrace v).frm = s.frm := rfl
@[simp] theorem State.setTrace_tmr (s : State) (v : List Event) : (s.setTrace v).tmr = s.tmr := rfl
@[simp] theorem State.setTrace_host (s : State) (v : List Event) : (s.setTrace v).host = s.host := rfl
@[simp] theorem State.setTrace_transport (s : State) (v : List Event) : (s.setTrace v).transport = s.transport := rfl
@[simp] theorem State.setTrace_wakes (s : State) (v : List Event) : (s.setTrace v).wakes = s.wakes := rfl
@[simp] theorem State.setTrace_trace (s : State) (v : List Event) : (s.setTrace v).trace = v := rfl

/-! ### emit -/

@[simp] theorem State.emit_cfg (s : State) (e : Event) : (s.emit e).cfg = s.cfg := rfl
@[simp] theorem State.emit_req (s : State) (e : Event) : (s.emit e).req = s.req := rfl
@[simp] theorem State.emit_pay (s : State) (e : Event) : (s.emit e).pay = s.pay := rfl
@[simp] theorem State.emit_written (s : State) (e : Event) : (s.emit e).written = s.written := rfl
@[simp] theorem State.emit_pln (s : State) (e : Event) : (s.emit e).pln = s.pln := rfl
@[simp] theorem State.emit_plb (s : State) (e : Event) : (s.emit e).plb = s.plb := rfl
@[simp] theorem State.emit_seq (s : State) (e : Event) : (s.emit e).seq = s.seq := rfl
@[simp] theorem State.emit_result (s : State) (e : Event) : (s.emit e).result = s.result := rfl
@[simp] theorem State.emit_frm (s : State) (e : Event) : (s.emit e).frm = s.frm := rfl
@[simp] theorem State.emit_tmr (s : State) (e : Event) : (s.emit e).tmr = s.tmr := rfl
@[simp] theorem State.emit_host (s : State) (e : Event) : (s.emit e).host = s.host := rfl
@[simp] theorem State.emit_transport (s : State) (e : Event) : (s.emit e).transport = s.transport := rfl
@[simp] theorem State.emit_wakes (s : State) (e : Event) : (s.emit e).wakes = s.wakes := rfl
@[simp] theorem State.emit_trace (s : State) (e : Event) : (s.emit e).trace = s.trace ++ [e] := rfl

/-! ### setValid -/

@[simp] theorem State.setValid_cfg (s : State) (v : Bool) : (s.setValid v).cfg = s.cfg := rfl
@[simp] theorem State.setValid_req (s : State) (v : Bool) : (s.setValid v).req = s.req := rfl
@[simp] theorem State.setValid_pay (s : State) (v : Bool) : (s.setValid v).pay = s.pay := rfl
@[simp] theorem State.setValid_written (s : State) (v : Bool) : (s.setValid v).written = s.written := rfl
@[simp] theorem State.setValid_pln (s : State) (v : Bool) : (s.setValid v).pln = s.pln := rfl
@[simp] theorem State.setValid_plb (s : State) (v : Bool) : (s.setValid v).plb = { s.plb with valid := v } := rfl
@[simp] theorem State.setValid_seq (s : State) (v : Bool) : (s.setValid v).seq = s.seq := rfl
@[simp] theorem State.setValid_result (s : State) (v : Bool) : (s.setValid v).result = s.result := rfl
@[simp] theorem State.setValid_frm (s : State) (v : Bool) : (s.setValid v).frm = s.frm := rfl
@[simp] theorem State.setValid_tmr (s : State) (v : Bool) : (s.setValid v).tmr = s.tmr := rfl
@[simp] theorem State.setValid_host (s : State) (v : Bool) : (s.setValid v).host = s.host := rfl
@[simp] theorem State.setValid_transport (s : State) (v : Bool) : (s.setValid v).transport = s.transport := rfl
@[simp] theorem State.setValid_wakes (s : State) (v : Bool) : (s.setValid v).wakes = s.wakes := rfl
@[simp] theorem State.setValid_trace (s : State) (v : Bool) : (s.setValid v).trace = s.trace := rfl

/-! ### raise (60_exceptions R208) -/

@[simp] theorem raise_cfg (e : WriteError) (s : State) : (raise e s).cfg = s.cfg := rfl
@[simp] theorem raise_req (e : WriteError) (s : State) : (raise e s).req = s.req := rfl
@[simp] theorem raise_pay (e : WriteError) (s : State) : (raise e s).pay = s.pay := rfl
@[simp] theorem raise_written (e : WriteError) (s : State) : (raise e s).written = s.written := rfl
@[simp] theorem raise_pln (e : WriteError) (s : State) : (raise e s).pln = s.pln := rfl
@[simp] theorem raise_plb (e : WriteError) (s : State) : (raise e s).plb = { s.plb with valid := false } := rfl
@[simp] theorem raise_seq (e : WriteError) (s : State) : (raise e s).seq = if e.ofTransfer then { s.seq with phase := .idle } else s.seq := rfl
@[simp] theorem raise_result (e : WriteError) (s : State) : (raise e s).result = .error e := rfl
@[simp] theorem raise_frm (e : WriteError) (s : State) : (raise e s).frm = s.frm := rfl
@[simp] theorem raise_tmr (e : WriteError) (s : State) : (raise e s).tmr = s.tmr := rfl
@[simp] theorem raise_host (e : WriteError) (s : State) : (raise e s).host = s.host := rfl
@[simp] theorem raise_transport (e : WriteError) (s : State) : (raise e s).transport = s.transport := rfl
@[simp] theorem raise_wakes (e : WriteError) (s : State) : (raise e s).wakes = s.wakes := rfl
@[simp] theorem raise_trace (e : WriteError) (s : State) : (raise e s).trace = s.trace := rfl

end Sys2Proof.Machine
end

