-- ==== Sys2Proof/Laws/Ops.lean ====
section
/-! SUPPORT. Sys2Proof/Laws/Ops.lean: what each shared operation can do, said once. -/

namespace Sys2Proof.Machine

/-! ## Round trips (41_write_sequencer R164, 60_exceptions R215) -/

/-- Everything a round trip can do: refuse a long frame, wait with the frame handed over, or take the
Transport's answer. -/
theorem transferWith_cases (rc : RoundTrip → List Byte → List Byte → Bool) (out : List Byte)
    (rt : RoundTrip) (nx : Phase) (s : State) :
    (Config.frameMax < out.length ∧ transferWith rc out rt nx s = .refused .frameTooLong) ∨
    (out.length ≤ Config.frameMax ∧ s.transport = [] ∧
      transferWith rc out rt nx s = .next (s.setFrm out)) ∨
    (out.length ≤ Config.frameMax ∧ ∃ r rest, s.transport = r :: rest ∧
      transferWith rc out rt nx s =
        .next (afterAnswer rc out rt nx r ((s.setFrm out).setTransport rest))) := by
  unfold transferWith
  by_cases h : Config.frameMax < out.length
  · exact .inl ⟨h, by simp [h]⟩
  · cases ht : s.transport with
    | nil => exact .inr (.inl ⟨by omega, rfl, by simp [h]⟩)
    | cons r rest => exact .inr (.inr ⟨by omega, r, rest, rfl, by simp [h]⟩)

/-- A round trip that answers a next state waited or took an answer, and its frame fits. -/
theorem transfer_next {out : List Byte} {rt : RoundTrip} {nx : Phase} {s t : State}
    (h : transfer out rt nx s = .next t) :
    out.length ≤ Config.frameMax ∧
    ((s.transport = [] ∧ t = s.setFrm out) ∨
      ∃ r rest, s.transport = r :: rest ∧
        t = afterAnswer Config.respCheck out rt nx r ((s.setFrm out).setTransport rest)) := by
  rcases transferWith_cases Config.respCheck out rt nx s with ⟨-, he⟩ | ⟨hl, ht, he⟩ |
    ⟨hl, r, rest, ht, he⟩
  · rw [transfer, he] at h; cases h
  · rw [transfer, he] at h; cases h; exact ⟨hl, .inl ⟨ht, rfl⟩⟩
  · rw [transfer, he] at h; cases h; exact ⟨hl, .inr ⟨r, rest, ht, rfl⟩⟩

/-- A round trip never faults. -/
theorem transfer_ne_fault (out : List Byte) (rt : RoundTrip) (nx : Phase) (s : State) (f : Fault) :
    transfer out rt nx s ≠ .fault f := by
  rcases transferWith_cases Config.respCheck out rt nx s with ⟨-, he⟩ | ⟨-, -, he⟩ | ⟨-, _, _, -, he⟩ <;>
    rw [transfer, he] <;> simp

@[simp] theorem afterAnswer_success (out : List Byte) (rt : RoundTrip) (nx : Phase)
    (inBytes : List Byte) (s : State) :
    afterAnswer Config.respCheck out rt nx (.success inBytes) s =
      (s.emit (.transfer out .success)).setSeq { s.seq with phase := nx } := rfl

@[simp] theorem afterAnswer_failure (rc : RoundTrip → List Byte → List Byte → Bool) (out : List Byte)
    (rt : RoundTrip) (nx : Phase) (inBytes : List Byte) (s : State) :
    afterAnswer rc out rt nx (.failure inBytes) s =
      raise (.protocolError (ordinal s.seq.index) rt) (s.emit (.transfer out .failure)) := rfl

@[simp] theorem afterAnswer_fault (rc : RoundTrip → List Byte → List Byte → Bool) (out : List Byte)
    (rt : RoundTrip) (nx : Phase) (d : Detail) (s : State) :
    afterAnswer rc out rt nx (.fault d) s =
      raise (.transportError (ordinal s.seq.index) rt d) (s.emit (.transfer out (.fault d))) := rfl

/-- An answer goes on with the event recorded, or raises the error of its segment and step. -/
theorem afterAnswer_cases (rc : RoundTrip → List Byte → List Byte → Bool) (out : List Byte)
    (rt : RoundTrip) (nx : Phase) (r : Response) (s : State) :
    afterAnswer rc out rt nx r s =
      (s.emit (.transfer out r.status)).setSeq { s.seq with phase := nx } ∨
    afterAnswer rc out rt nx r s =
      raise (.protocolError (ordinal s.seq.index) rt) (s.emit (.transfer out r.status)) ∨
    ∃ d, r = .fault d ∧ afterAnswer rc out rt nx r s =
      raise (.transportError (ordinal s.seq.index) rt d) (s.emit (.transfer out r.status)) := by
  cases r with
  | success i =>
    by_cases h : rc rt out i
    · exact .inl (by simp [afterAnswer, checkResponse, h])
    · exact .inr (.inl (by simp [afterAnswer, checkResponse, h]))
  | failure i => exact .inr (.inl rfl)
  | fault d => exact .inr (.inr ⟨d, rfl, rfl⟩)

/-- An answer leaves these fields as they were. -/
theorem afterAnswer_frame (rc : RoundTrip → List Byte → List Byte → Bool) (out : List Byte)
    (rt : RoundTrip) (nx : Phase) (r : Response) (s : State) :
    let t := afterAnswer rc out rt nx r s
    t.cfg = s.cfg ∧ t.req = s.req ∧ t.pay = s.pay ∧ t.written = s.written ∧ t.pln = s.pln ∧ t.plb.seg = s.plb.seg ∧
    t.plb.cap = s.plb.cap ∧ t.seq.index = s.seq.index ∧ t.frm = s.frm ∧ t.tmr = s.tmr ∧
    t.host = s.host ∧ t.transport = s.transport ∧ t.wakes = s.wakes ∧
    t.trace = s.trace ++ [.transfer out r.status] := by
  rcases afterAnswer_cases rc out rt nx r s with h | h | ⟨d, -, h⟩ <;> simp [h, WriteError.ofTransfer]

/-! ## Sleep and advance (41_write_sequencer R170, R173) -/

/-- The advance: to the next slot's WREN, or to IDLE with `RESULT = ok`. -/
theorem advance_cases (s : State) :
    (s.seq.index.toNat + 1 < s.plb.seg.length ∧ advance s = s.setSeq ⟨s.seq.index + 1, .wren⟩) ∨
    (s.plb.seg.length ≤ s.seq.index.toNat + 1 ∧
      advance s = (s.setSeq ⟨s.seq.index + 1, .idle⟩).setResult .ok) := by
  unfold advance
  by_cases h : s.seq.index.toNat + 1 < s.plb.seg.length
  · exact .inl ⟨h, by simp [h]⟩
  · exact .inr ⟨by omega, by simp [h]⟩

theorem advance_frame (s : State) :
    (advance s).cfg = s.cfg ∧ (advance s).req = s.req ∧ (advance s).pay = s.pay ∧
    (advance s).written = s.written ∧ (advance s).pln = s.pln ∧ (advance s).plb = s.plb ∧ (advance s).frm = s.frm ∧
    (advance s).tmr = s.tmr ∧ (advance s).host = s.host ∧ (advance s).transport = s.transport ∧
    (advance s).wakes = s.wakes ∧ (advance s).trace = s.trace ∧
    (advance s).seq.index = s.seq.index + 1 := by
  rcases advance_cases s with ⟨-, h⟩ | ⟨-, h⟩ <;> simp [h]

/-- Everything a sleep can do: wait with the request made, or record it and advance. -/
theorem sleep_cases (ms : Millis) (s : State) :
    (s.wakes = 0 ∧ sleep ms s = .next (s.setTmr ms)) ∨
    ∃ n, s.wakes = n + 1 ∧
      sleep ms s = .next (advance (((s.setTmr ms).setWakes n).emit (.sleep ms))) := by
  unfold sleep
  cases h : s.wakes with
  | zero => exact .inl ⟨rfl, rfl⟩
  | succ n => exact .inr ⟨n, rfl, rfl⟩

/-! ## Starting a sequence (41_write_sequencer R152, R153) -/

theorem beginSequence_cases (s : State) :
    (s.plb.seg = [] ∧ beginSequence s = ((s.setValid false).setSeq ⟨0, .idle⟩).setResult .ok) ∨
    (s.plb.seg ≠ [] ∧ beginSequence s = (s.setValid false).setSeq ⟨0, .wren⟩) := by
  unfold beginSequence
  cases h : s.plb.seg with
  | nil => exact .inl ⟨rfl, by simp⟩
  | cons g gs => exact .inr ⟨by simp, by simp⟩

theorem beginSequence_frame (s : State) :
    let t := beginSequence s
    t.cfg = s.cfg ∧ t.req = s.req ∧ t.pay = s.pay ∧ t.written = s.written ∧ t.pln = s.pln ∧ t.plb.seg = s.plb.seg ∧
    t.plb.cap = s.plb.cap ∧ t.plb.valid = false ∧ t.frm = s.frm ∧ t.tmr = s.tmr ∧
    t.host = s.host ∧ t.transport = s.transport ∧ t.wakes = s.wakes ∧ t.trace = s.trace := by
  rcases beginSequence_cases s with ⟨-, h⟩ | ⟨-, h⟩ <;> simp [h]

/-! ## Host loads (10_state R41) -/

/-- A load writes operand registers only. -/
theorem applyLoad_frame (l : HostLoad) (s : State) :
    let t := applyLoad l s
    t.pln = s.pln ∧ t.plb = s.plb ∧ t.seq = s.seq ∧ t.result = s.result ∧ t.frm = s.frm ∧
    t.tmr = s.tmr ∧ t.host = s.host ∧ t.transport = s.transport ∧ t.wakes = s.wakes ∧
    t.trace = s.trace := by
  cases l <;> simp [applyLoad]

/-- Everything a host load can do: write its register, or refuse a payload out of reach. -/
theorem hostLoad_cases (l : HostLoad) (s : State) :
    (∃ bytes, l = .payload bytes ∧ Config.addressMax + 1 < bytes.length ∧
      hostLoad l s = .refused .payloadBounds) ∨
    ((∀ bytes, l = .payload bytes → bytes.length ≤ Config.addressMax + 1) ∧
      hostLoad l s = .next (applyLoad l s)) := by
  cases l with
  | payload bytes =>
    by_cases h : Config.addressMax + 1 < bytes.length
    · exact .inl ⟨bytes, rfl, h, by simp [hostLoad, h]⟩
    · exact .inr ⟨by rintro _ ⟨rfl⟩; omega, by simp [hostLoad, h]⟩
  | pageSize v => exact .inr ⟨by simp, rfl⟩
  | addressByteWidth v => exact .inr ⟨by simp, rfl⟩
  | endianness v => exact .inr ⟨by simp, rfl⟩
  | interPageDelayMs v => exact .inr ⟨by simp, rfl⟩
  | wrenFrame v => exact .inr ⟨by simp, rfl⟩
  | writeOpcode v => exact .inr ⟨by simp, rfl⟩
  | startOffset v => exact .inr ⟨by simp, rfl⟩
  | totalLength v => exact .inr ⟨by simp, rfl⟩

/-! ## The host operations by inversion -/

/-- Everything PLAN can do (40_page_planner R122, R131, R138, R139). -/
theorem execPlan_cases (cap : Nat) (s : State) :
    (planOperands s = none ∧ execPlan cap s = .refused .unwrittenOperand) ∨
    ∃ p L S, planOperands s = some (p, L, S) ∧
      ((rangeOverflow L S = true ∧ execPlan cap s = .refused .rangeOverflow) ∨
       (rangeOverflow L S = false ∧ p = 0 ∧
         execPlan cap s = .next (raise .configError (openPlan cap s))) ∨
       (rangeOverflow L S = false ∧ 0 < p ∧ ∃ w, planRun p L S cap s.pln = .planned w ∧
         execPlan cap s = .next (((storePlan w (openPlan cap s)).setValid true).setResult .ok)) ∨
       (rangeOverflow L S = false ∧ 0 < p ∧ ∃ w, planRun p L S cap s.pln = .overfull w ∧
         execPlan cap s = .next (raise .capacityError (storePlan w (openPlan cap s))))) := by
  unfold execPlan
  cases ho : planOperands s with
  | none => exact .inl ⟨rfl, rfl⟩
  | some o =>
    obtain ⟨p, L, S⟩ := o
    refine .inr ⟨p, L, S, rfl, ?_⟩
    cases hr : rangeOverflow L S with
    | true => exact .inl ⟨rfl, by simp [hr]⟩
    | false =>
      refine .inr ?_
      rcases Nat.eq_zero_or_pos p with hp | hp
      · exact .inl ⟨rfl, hp, by simp [hr, hp]⟩
      · have hp' : p ≠ 0 := by omega
        cases hw : planRun p L S cap s.pln with
        | planned w => exact .inr (.inl ⟨rfl, hp, w, rfl, by simp [hr, hp', hw]⟩)
        | overfull w => exact .inr (.inr ⟨rfl, hp, w, rfl, by simp [hr, hp', hw]⟩)

/-- Everything EXECUTE can do (41_write_sequencer R151, R152). -/
theorem execExecute_cases (s : State) :
    (∃ r, executeRefusal s = some r ∧ execExecute s = .refused r) ∨
    (executeRefusal s = none ∧ s.cfg.configOK = true ∧ execExecute s = .next (beginSequence s)) ∨
    (executeRefusal s = none ∧ s.cfg.configOK = false ∧
      execExecute s = .next (raise .configError s)) := by
  unfold execExecute
  cases hr : executeRefusal s with
  | some r => exact .inl ⟨r, rfl, rfl⟩
  | none =>
    cases hc : s.cfg.configOK with
    | true => exact .inr (.inl ⟨rfl, rfl, by simp⟩)
    | false => exact .inr (.inr ⟨rfl, rfl, by simp⟩)

/-- Everything WRITE_OP can do (41_write_sequencer R181, R182). -/
theorem execWriteOp_cases (cap : Nat) (s : State) :
    (∃ r, execWriteOp cap s = .refused r) ∨
    ∃ p L S, planOperands s = some (p, L, S) ∧ s.cfg.written s.written = true ∧
      s.written.payload = true ∧
      writeOpRefusal p L S s = none ∧
      ((s.cfg.configOK = false ∧ execWriteOp cap s = .next (raise .configError s)) ∨
       (s.cfg.configOK = true ∧ ∃ w, planRun p L S cap s.pln = .planned w ∧
         execWriteOp cap s = .next (beginSequence (storePlan w (openPlan cap s)))) ∨
       (s.cfg.configOK = true ∧ ∃ w, planRun p L S cap s.pln = .overfull w ∧
         execWriteOp cap s = .next (raise .capacityError (storePlan w (openPlan cap s))))) := by
  unfold execWriteOp
  cases ho : planOperands s with
  | none => exact .inl ⟨_, rfl⟩
  | some o =>
    obtain ⟨p, L, S⟩ := o
    simp only
    by_cases hw : (s.cfg.written s.written && s.written.payload) = true
    · cases hr : writeOpRefusal p L S s with
      | some r => exact .inl ⟨r, by simp [hw]⟩
      | none =>
        refine .inr ⟨p, L, S, rfl, (Bool.and_eq_true_iff.1 hw).1, (Bool.and_eq_true_iff.1 hw).2, hr, ?_⟩
        cases hc : s.cfg.configOK with
        | false => exact .inl ⟨rfl, by simp [hw]⟩
        | true =>
          cases hp : planRun p L S cap s.pln with
          | planned w => exact .inr (.inl ⟨rfl, w, rfl, by simp [hw]⟩)
          | overfull w => exact .inr (.inr ⟨rfl, w, rfl, by simp [hw]⟩)
    · simp only [Bool.not_eq_true] at hw
      exact .inl ⟨.unwrittenOperand, by simp [hw]⟩

end Sys2Proof.Machine
end

