-- ==== Sys2Proof/Laws/Premises.lean ====
section
/-! SUPPORT. Sys2Proof/Laws/Premises.lean: the computed checks of the model against the premises as the spec words
them. -/

namespace Sys2Proof.Machine

theorem configOK_iff (c : Cfg) : c.configOK = true ↔ GoodConfig c := by
  simp only [Cfg.configOK, Bool.and_eq_true, Bool.or_eq_true, decide_eq_true_eq]
  exact ⟨fun h => ⟨h.1.1, h.1.2, h.2⟩, fun h => ⟨⟨h.pageSize, h.addressByteWidth⟩, h.wrenFrame⟩⟩

theorem cfgWritten_iff (w : Written) (c : Cfg) : c.written w = true ↔ CfgHoldsValues w c := by
  simp only [Cfg.written, Bool.and_eq_true, Bool.or_eq_true, decide_eq_true_eq]
  constructor
  · rintro ⟨⟨⟨⟨⟨h1, h2⟩, h3⟩, h4⟩, h5⟩, h6⟩
    exact ⟨h1, h2, fun h => h3.resolve_left fun h' => h' h, h4, h5, h6⟩
  · rintro ⟨h1, h2, h3, h4, h5, h6⟩
    exact ⟨⟨⟨⟨⟨h1, h2⟩, Decidable.not_or_of_imp h3⟩, h4⟩, h5⟩, h6⟩

theorem framesFit_iff (c : Cfg) (segs : List PageSegment) :
    c.framesFit segs = true ↔ FramesFit c segs := by
  simp only [Cfg.framesFit, Bool.and_eq_true, decide_eq_true_eq, List.all_eq_true]
  exact ⟨fun h => ⟨h.1, h.2⟩, fun h => ⟨h.wren, h.write⟩⟩

theorem covers_iff (pay : Payload) (g : PageSegment) :
    pay.covers g = true ↔ g.sourceOffset.toNat + g.length.toNat ≤ pay.size := by
  simp [Payload.covers]

/-- The operands of PLAN, once all three are written. -/
theorem planOperands_eq_some {s : State} {p L S : Nat} :
    planOperands s = some (p, L, S) ↔
      (s.written.pageSize = true ∧ s.written.totalLength = true ∧ s.written.startOffset = true) ∧
      s.cfg.pageSize.toNat = p ∧ s.req.totalLength.toNat = L ∧ s.req.startOffset.toNat = S := by
  simp [planOperands, and_assoc]

theorem rangeOverflow_iff (L S : Nat) :
    rangeOverflow L S = true ↔ 0 < L ∧ 65535 < S + L - 1 := by
  simp only [rangeOverflow, Bool.and_eq_true, decide_eq_true_eq]
  exact Iff.rfl

theorem rangeOverflow_false_iff (L S : Nat) :
    rangeOverflow L S = false ↔ (L = 0 ∨ S + L - 1 ≤ 65535) := by
  rw [← Bool.not_eq_true, rangeOverflow_iff]
  omega

/-- The operands of PLAN are 16-bit values. -/
theorem planOperands_bounds {s : State} {p L S : Nat} (h : planOperands s = some (p, L, S)) :
    p < 65536 ∧ L < 65536 ∧ S < 65536 := by
  obtain ⟨-, rfl, rfl, rfl⟩ := planOperands_eq_some.1 h
  exact ⟨BitVec.isLt _, BitVec.isLt _, BitVec.isLt _⟩

/-- A good configuration selects a format of its width. -/
theorem writeFormat_of_good {c : Cfg} (hg : GoodConfig c) :
    ∃ f, c.writeFormat = some f ∧ f.width = c.addressByteWidth.toNat := by
  rcases hg.addressByteWidth with h | h
  · exact ⟨.a1, by simp [Cfg.writeFormat, h], by simp [h, AddressFormat.width]⟩
  · cases he : c.endianness with
    | big => exact ⟨.a2b, by simp [Cfg.writeFormat, h, he], by simp [h, AddressFormat.width]⟩
    | little => exact ⟨.a2l, by simp [Cfg.writeFormat, h, he], by simp [h, AddressFormat.width]⟩

/-- A segment inside the payload whose bytes hold values reads. -/
theorem segmentData_isSome {pay : Payload} {g : PageSegment}
    (hb : g.sourceOffset.toNat + g.length.toNat ≤ pay.size)
    (hv : ∀ a, g.sourceOffset.toNat ≤ a → a < g.sourceOffset.toNat + g.length.toNat →
      Memory.read pay.cells a ≠ none) : ∃ data, pay.segmentData g = some data := by
  obtain ⟨bs, h⟩ := Memory.readBytes_isSome pay.cells g.length.toNat g.sourceOffset.toNat
    fun i hi => hv _ (by omega) (by omega)
  exact ⟨bs, by simp [Payload.segmentData, Payload.memRead, hb, h]⟩

end Sys2Proof.Machine
end

