-- ==== Sys2Proof/Laws/Plan.lean ====
section
/-! SUPPORT. Sys2Proof/Laws/Plan.lean: the slices the planner stores are those of the closed form of
40_page_planner R134, and where a slice lies. -/

namespace Sys2Proof.Machine

theorem pagesLeft_start (p L S : Nat) : pagesLeft p S (S + L) = pageCount p L S := by
  unfold pagesLeft pageCount
  by_cases h : L = 0
  · simp [h]
  · have : S < S + L := by omega
    simp [h, this]

/-- The first page the range touches, and the last. -/
theorem page_range {p L S : Nat} (hp : 0 < p) (hL : 0 < L) :
    S / p * p ≤ S ∧ S < (S / p + 1) * p ∧
    (S / p + pageCount p L S - 1) * p ≤ S + L - 1 ∧ S + L - 1 < (S / p + pageCount p L S) * p := by
  obtain ⟨h1, h2, -⟩ := page_bounds hp S
  obtain ⟨h3, h4, -⟩ := page_bounds hp (S + L - 1)
  have hle : S / p ≤ (S + L - 1) / p := Nat.div_le_div_right (by omega)
  have hn : pageCount p L S = (S + L - 1) / p - S / p + 1 := by
    simp [pageCount, show L ≠ 0 by omega]
  have key : ∀ a b n : Nat, a ≤ b → n = b - a + 1 → a + n - 1 = b ∧ a + n = b + 1 := by
    intro a b n; omega
  obtain ⟨e1, e2⟩ := key _ _ _ hle hn
  rw [e1, e2]
  exact ⟨h1, h2, h3, h4⟩

/-- Where the slice of page `S / p + k` begins and ends, as numbers, and that it is not empty. -/
theorem slice_bounds {p L S k : Nat} (hp : 0 < p) (hk : k < pageCount p L S) :
    let q := S / p + k
    (k = 0 → max S (q * p) = S) ∧ (0 < k → max S (q * p) = q * p) ∧
    (k + 1 < pageCount p L S → min (S + L) ((q + 1) * p) = (q + 1) * p) ∧
    (k + 1 = pageCount p L S → min (S + L) ((q + 1) * p) = S + L) ∧
    max S (q * p) < min (S + L) ((q + 1) * p) ∧ (q + 1) * p = q * p + p := by
  have hL : 0 < L := by
    rcases Nat.eq_zero_or_pos L with h | h
    · simp [pageCount, h] at hk
    · exact h
  obtain ⟨h1, h2, h3, h4⟩ := page_range (S := S) hp hL
  have hmul : (S / p + k + 1) * p = (S / p + k) * p + p := Nat.succ_mul _ _
  have hS : (S / p + 1) * p = S / p * p + p := Nat.succ_mul _ _
  have hk0 : 0 < k → S < (S / p + k) * p := fun h =>
    Nat.lt_of_lt_of_le h2 (Nat.mul_le_mul_right p (by omega))
  have hk1 : k + 1 < pageCount p L S → (S / p + k + 1) * p < S + L := fun h => by
    have := Nat.mul_le_mul_right p (show S / p + k + 1 ≤ S / p + pageCount p L S - 1 by omega)
    omega
  have hk2 : k + 1 = pageCount p L S → S + L ≤ (S / p + k + 1) * p := fun h => by
    rw [show S / p + k + 1 = S / p + pageCount p L S by omega]; omega
  have hk3 : (S / p + k) * p < S + L := by
    have := Nat.mul_le_mul_right p (show S / p + k ≤ S / p + pageCount p L S - 1 by omega)
    omega
  have hSk : S < (S / p + k + 1) * p :=
    Nat.lt_of_lt_of_le h2 (Nat.mul_le_mul_right p (by omega))
  refine ⟨?_, ?_, ?_, ?_, ?_, hmul⟩
  · rintro rfl; simp only [Nat.add_zero]; omega
  · intro h; have := hk0 h; omega
  · intro h; have := hk1 h; omega
  · intro h; have := hk2 h; omega
  · omega

/-- A slice is the segment of its ordinal. -/
theorem pageSlice_eq_closedSegment {p L S k : Nat} (hp : 0 < p) (hk : k < pageCount p L S) :
    pageSlice p S (S + L) (S / p + k) = closedSegment p L S (k + 1) := by
  obtain ⟨h1, h2, h3, h4, h5, h6⟩ := slice_bounds hp hk
  obtain ⟨b1, b2, b3⟩ := page_bounds hp S
  have hmod : S % p = S - S / p * p := by
    have := Nat.div_add_mod S p; rw [Nat.mul_comm] at this; omega
  unfold pageSlice closedSegment
  rcases Nat.eq_zero_or_pos k with rfl | hk0
  · have h1' := h1 rfl
    simp only [Nat.add_zero] at h1' h5 ⊢
    simp only [h1', Nat.zero_add, if_true, Nat.sub_self]
    congr 2
    omega
  · have h2' := h2 hk0
    have e1 : S / p + (k + 1) - 1 = S / p + k := rfl
    have e2 : k + 1 ≠ 1 := by omega
    simp only [h2', e2, if_false, e1]
    congr 2
    by_cases hlast : k + 1 < pageCount p L S
    · simp only [hlast, if_true]
      have := h3 hlast
      omega
    · have hn : k + 1 = pageCount p L S := by omega
      simp only [← hn, Nat.lt_irrefl, if_false, e1]
      have := h4 hn
      omega

/-- The planner's slices are the plan in closed form (40_page_planner R134). -/
theorem closedPlan_eq_slices {p : Nat} (hp : 0 < p) (L S : Nat) :
    closedPlan p L S = slicesFrom p S S (S + L) := by
  unfold closedPlan slicesFrom
  rw [pagesLeft_start, List.range'_eq_map_range, List.map_map]
  refine List.map_congr_left fun k hk => ?_
  rw [List.mem_range] at hk
  exact (pageSlice_eq_closedSegment hp hk).symm

@[simp] theorem closedPlan_length (p L S : Nat) : (closedPlan p L S).length = pageCount p L S := by
  simp [closedPlan]

/-- A plan has at most as many segments as bytes (40_page_planner R124). -/
theorem pageCount_le {p : Nat} (hp : 0 < p) (L S : Nat) : pageCount p L S ≤ L := by
  rcases Nat.eq_zero_or_pos L with rfl | hL
  · simp [pageCount]
  · have hn : pageCount p L S = (S + L - 1) / p - S / p + 1 := by
      simp [pageCount, show L ≠ 0 by omega]
    have h1 : (S + L - 1) / p ≤ S / p + (L - 1) := by
      have h2 : (S + (L - 1)) / p ≤ (S + p * (L - 1)) / p :=
        Nat.div_le_div_right (Nat.add_le_add_left (Nat.le_mul_of_pos_left _ hp) _)
      rw [Nat.add_mul_div_left _ _ hp] at h2
      rwa [show S + L - 1 = S + (L - 1) by omega]
    omega

/-- Planning a request in closed form (40_page_planner R131, R133, R134). -/
theorem planRun_closed {p : Nat} (hp : 0 < p) (L S cap : Nat) (old : Pln) :
    (pageCount p L S ≤ cap → ∃ w, planRun p L S cap old = .planned w ∧ w.segs = closedPlan p L S ∧
      w.currentAddress = S + L ∧ w.remaining = 0 ∧ w.sourceOffset = L ∧
      (L ≠ 0 → w.nextPageBoundary = ((S + L - 1) / p + 1) * p)) ∧
    (cap < pageCount p L S → ∃ w, planRun p L S cap old = .overfull w ∧
      w.segs = (closedPlan p L S).take cap) := by
  have h := planRun_spec hp L S cap old
  simpa only [← closedPlan_eq_slices hp, closedPlan_length] using h

/-- The segments of the whole plan are the closed form. -/
theorem planSegments_closed {p : Nat} (hp : 0 < p) (L S : Nat) :
    planSegments p L S = closedPlan p L S := by
  obtain ⟨w, h1, h2, -⟩ := (planRun_closed hp L S L ⟨0, 0, 0, 0, 0, 0⟩).1 (pageCount_le hp L S)
  unfold planSegments
  rw [h1]
  exact h2

/-- A segment of the plan, as numbers: it starts at `a` and ends at `b`, inside page `S / p + k`. -/
theorem closedSegment_numbers {p L S k : Nat} (hp : 0 < p) (hk : k < pageCount p L S)
    (hS : S < 65536) (hr : L = 0 ∨ S + L - 1 ≤ 65535) :
    let g := closedSegment p L S (k + 1)
    let q := S / p + k
    g.address.toNat = max S (q * p) ∧ g.sourceOffset.toNat = max S (q * p) - S ∧
    (L < 65536 → g.length.toNat = min (S + L) ((q + 1) * p) - max S (q * p)) := by
  obtain ⟨h1, h2, h3, h4, h5, h6⟩ := slice_bounds hp hk
  rw [← pageSlice_eq_closedSegment hp hk]
  simp only [pageSlice, BitVec.toNat_ofNat]
  refine ⟨Nat.mod_eq_of_lt ?_, Nat.mod_eq_of_lt ?_, fun _ => Nat.mod_eq_of_lt ?_⟩ <;> omega

end Sys2Proof.Machine
end

