-- ==== Sys2Proof/Laws/Step.lean ====
section
/-! SUPPORT. Sys2Proof/Laws/Step.lean: what a step runs, by phase, and how a run unrolls. -/

namespace Sys2Proof.Machine

/-! ## Runs -/

@[simp] theorem runSteps_zero (s : State) : runSteps 0 s = .next s := rfl

/-- A run goes on from the state its first step answers. -/
theorem runSteps_next {s t : State} (h : step s = .next t) (k : Nat) :
    runSteps (k + 1) s = runSteps k t := by
  simp [runSteps, h]

/-- One step is a run of one. -/
theorem runSteps_one (s : State) : runSteps 1 s = step s := by
  unfold runSteps
  cases step s <;> rfl

/-- Two runs in a row are one run. -/
theorem runSteps_add {j : Nat} : ∀ {s t : State} (k : Nat), runSteps j s = .next t →
    runSteps (j + k) s = runSteps k t := by
  induction j with
  | zero => intro s t k h; cases h; rw [Nat.zero_add]
  | succ j ih =>
    intro s t k h
    cases hs : step s with
    | next u =>
      rw [runSteps_next hs] at h
      rw [show j + 1 + k = (j + k) + 1 by omega, runSteps_next hs]
      exact ih k h
    | fault f => simp [runSteps, hs] at h
    | refused r => simp [runSteps, hs] at h

/-- The runs of the machine behind the host's interface are the model's. -/
theorem core_run_eq_runSteps (k : Nat) : ∀ s : State, Sys2Proof.core.run k s = runSteps k s := by
  induction k with
  | zero => intro s; rfl
  | succ k ih =>
    intro s
    cases hs : step s with
    | next t =>
      have h : Sys2Proof.core.step s = .next t := hs
      simpa [Host.Core.run, h, runSteps, hs] using ih t
    | fault f =>
      have h : Sys2Proof.core.step s = .fault f := hs
      simp [Host.Core.run, h, runSteps, hs]
      rfl
    | refused r =>
      have h : Sys2Proof.core.step s = .refused r := hs
      simp [Host.Core.run, h, runSteps, hs]
      rfl

/-! ## Steps by phase -/

theorem step_idle_waiting {s : State} (hp : s.seq.phase = .idle) (hh : s.host = []) :
    step s = .next s := by simp [step, hp, hh]

theorem step_idle_load {s : State} {l : HostLoad} {rest : List HostMove}
    (hp : s.seq.phase = .idle) (hh : s.host = .load l :: rest) :
    step s = hostLoad l (s.setHost rest) := by simp [step, hp, hh, hostMove]

theorem step_idle_reset {s : State} {rest : List HostMove}
    (hp : s.seq.phase = .idle) (hh : s.host = .reset :: rest) :
    step s = .next (hostReset (s.setHost rest)) := by simp [step, hp, hh, hostMove]

theorem step_idle_start {s : State} {op : BitVec 2} {cap : Option Nat} {rest : List HostMove}
    {i : Instr} (hp : s.seq.phase = .idle) (hh : s.host = .start op cap :: rest)
    (hd : decode (.cmd op cap) = .ok i) : step s = exec i (s.setHost rest) := by
  simp [step, hp, hh, hostMove, hd]

theorem step_wren {s : State} (hp : s.seq.phase = .wren) :
    step s = execWren s.cfg.wrenFrame s := by
  simp [step, hp, fetchWren, runFetched, exec]

theorem step_delay {s : State} (hp : s.seq.phase = .delay) :
    step s = execDelay s.cfg.interPageDelayMs s := by
  simp [step, hp, fetchDelay, runFetched, exec]

/-- The bytes of a WRITE step: opcode, encoded address, data (41_write_sequencer R152). -/
theorem exec_writeInstr (format : AddressFormat) (opcode : Byte) (address : Word) (data : List Byte)
    (s : State) : exec (writeInstr format opcode address data) s =
      transfer ([opcode] ++ encAddr format address ++ data) .write .delay s := by
  cases format <;> rfl

theorem step_write {s : State} {g : PageSegment} {format : AddressFormat} {data : List Byte}
    (hp : s.seq.phase = .write)
    (hg : s.plb.seg[s.seq.index.toNat]? = some g) (hf : s.cfg.writeFormat = some format)
    (hd : s.pay.segmentData g = some data) :
    step s = transfer ([s.cfg.writeOpcode] ++ encAddr format g.address ++ data) .write .delay s := by
  have hg' : s.plb.planRead s.seq.index.toNat = some g := hg
  simp only [step, hp, fetchWrite, hg', hf, hd, runFetched, exec_writeInstr]

/-- At a filled slot a width without a format ends in ConfigError, nothing sent (30_encoding R97). -/
theorem step_write_badWidth {s : State} {g : PageSegment} (hp : s.seq.phase = .write)
    (hg : s.plb.seg[s.seq.index.toNat]? = some g) (hf : s.cfg.writeFormat = none) :
    step s = .next (raise .configError (s.setSeq { s.seq with phase := .idle })) := by
  have hg' : s.plb.planRead s.seq.index.toNat = some g := hg
  simp only [step, hp, fetchWrite, hg', hf, runFetched]

/-- What a step that answers a next state did: waited for the host, made one host move, ran the sequencer's
transfer or sleep, or met a width without a format. -/
theorem step_next_cases {s t : State} (h : step s = .next t) :
    (s.seq.phase = .idle ∧ s.host = [] ∧ t = s) ∨
    (s.seq.phase = .idle ∧ ∃ l rest, s.host = .load l :: rest ∧
      hostLoad l (s.setHost rest) = .next t) ∨
    (s.seq.phase = .idle ∧ ∃ rest, s.host = .reset :: rest ∧ t = hostReset (s.setHost rest)) ∨
    (s.seq.phase = .idle ∧ ∃ op cap rest i, s.host = .start op cap :: rest ∧
      decode (.cmd op cap) = .ok i ∧ exec i (s.setHost rest) = .next t) ∨
    (s.seq.phase = .wren ∧ transfer s.cfg.wrenFrame .wren .write s = .next t) ∨
    (s.seq.phase = .write ∧ ∃ g format data,
      s.plb.seg[s.seq.index.toNat]? = some g ∧ s.cfg.writeFormat = some format ∧
      s.pay.segmentData g = some data ∧
      transfer ([s.cfg.writeOpcode] ++ encAddr format g.address ++ data) .write .delay s = .next t) ∨
    (s.seq.phase = .write ∧ s.cfg.writeFormat = none ∧
      t = raise .configError (s.setSeq { s.seq with phase := .idle })) ∨
    (s.seq.phase = .delay ∧ sleep s.cfg.interPageDelayMs s = .next t) := by
  cases hp : s.seq.phase with
  | idle =>
    cases hh : s.host with
    | nil => rw [step_idle_waiting hp hh] at h; cases h; exact .inl ⟨rfl, rfl, rfl⟩
    | cons m rest =>
      cases m with
      | load l =>
        rw [step_idle_load hp hh] at h
        exact .inr (.inl ⟨rfl, l, rest, rfl, h⟩)
      | reset =>
        rw [step_idle_reset hp hh] at h
        cases h
        exact .inr (.inr (.inl ⟨rfl, rest, rfl, rfl⟩))
      | start op cap =>
        cases hd : decode (.cmd op cap) with
        | ok i =>
          rw [step_idle_start hp hh hd] at h
          exact .inr (.inr (.inr (.inl ⟨rfl, op, cap, rest, i, rfl, hd, h⟩)))
        | error e => simp [step, hp, hh, hostMove, hd] at h
  | wren =>
    rw [step_wren hp] at h
    exact .inr (.inr (.inr (.inr (.inl ⟨rfl, h⟩))))
  | write =>
    refine .inr (.inr (.inr (.inr (.inr ?_))))
    simp only [step, hp, fetchWrite] at h
    split at h
    · cases h
    · rename_i g hg
      split at h
      · rename_i hf
        exact .inr (.inl ⟨rfl, hf, (Host.Outcome.next.inj h).symm⟩)
      · rename_i format hf
        split at h
        · cases h
        · rename_i data hd
          simp only [runFetched, exec_writeInstr] at h
          exact .inl ⟨rfl, g, format, data, hg, hf, hd, h⟩
  | delay =>
    rw [step_delay hp] at h
    exact .inr (.inr (.inr (.inr (.inr (.inr (.inr ⟨rfl, h⟩))))))

/-- The operations a host start can decode to. -/
theorem decodeCmd_cases {op : BitVec 2} {cap : Option Nat} {i : Instr}
    (h : decode (.cmd op cap) = .ok i) :
    (∃ n, cap = some n ∧ i = .plan n) ∨ i = .execute ∨ ∃ n, cap = some n ∧ i = .writeOp n := by
  simp only [decode, decodeCmd] at h
  split at h
  · cases cap <;> simp at h
    exact .inl ⟨_, rfl, h.symm⟩
  · split at h
    · cases cap <;> simp at h
      exact .inr (.inl h.symm)
    · split at h
      · cases cap <;> simp at h
        exact .inr (.inr ⟨_, rfl, h.symm⟩)
      · cases h

end Sys2Proof.Machine
end

