-- ==== Sys2Proof/Laws/HostOps.lean ====
section
/-! SUPPORT. Sys2Proof/Laws/HostOps.lean: the field lemmas of the planner's two updates, when the premises of
EXECUTE and WRITE_OP hold, and what WRITE_OP then does. -/

namespace Sys2Proof.Machine

/-! ## `openPlan` and `storePlan` -/

@[simp] theorem openPlan_cfg (cap : Nat) (s : State) : (openPlan cap s).cfg = s.cfg := rfl
@[simp] theorem openPlan_req (cap : Nat) (s : State) : (openPlan cap s).req = s.req := rfl
@[simp] theorem openPlan_pay (cap : Nat) (s : State) : (openPlan cap s).pay = s.pay := rfl
@[simp] theorem openPlan_written (cap : Nat) (s : State) : (openPlan cap s).written = s.written := rfl
@[simp] theorem openPlan_pln (cap : Nat) (s : State) : (openPlan cap s).pln = s.pln := rfl
@[simp] theorem openPlan_plb (cap : Nat) (s : State) : (openPlan cap s).plb = ⟨[], cap, false⟩ := rfl
@[simp] theorem openPlan_seq (cap : Nat) (s : State) : (openPlan cap s).seq = s.seq := rfl
@[simp] theorem openPlan_result (cap : Nat) (s : State) : (openPlan cap s).result = s.result := rfl
@[simp] theorem openPlan_frm (cap : Nat) (s : State) : (openPlan cap s).frm = s.frm := rfl
@[simp] theorem openPlan_tmr (cap : Nat) (s : State) : (openPlan cap s).tmr = s.tmr := rfl
@[simp] theorem openPlan_host (cap : Nat) (s : State) : (openPlan cap s).host = s.host := rfl
@[simp] theorem openPlan_transport (cap : Nat) (s : State) : (openPlan cap s).transport = s.transport := rfl
@[simp] theorem openPlan_wakes (cap : Nat) (s : State) : (openPlan cap s).wakes = s.wakes := rfl
@[simp] theorem openPlan_trace (cap : Nat) (s : State) : (openPlan cap s).trace = s.trace := rfl

@[simp] theorem storePlan_cfg (w : PlanWork) (s : State) : (storePlan w s).cfg = s.cfg := rfl
@[simp] theorem storePlan_req (w : PlanWork) (s : State) : (storePlan w s).req = s.req := rfl
@[simp] theorem storePlan_pay (w : PlanWork) (s : State) : (storePlan w s).pay = s.pay := rfl
@[simp] theorem storePlan_written (w : PlanWork) (s : State) : (storePlan w s).written = s.written := rfl
@[simp] theorem storePlan_plb (w : PlanWork) (s : State) :
    (storePlan w s).plb = { s.plb with seg := w.segs } := rfl
@[simp] theorem storePlan_seq (w : PlanWork) (s : State) : (storePlan w s).seq = s.seq := rfl
@[simp] theorem storePlan_result (w : PlanWork) (s : State) : (storePlan w s).result = s.result := rfl
@[simp] theorem storePlan_frm (w : PlanWork) (s : State) : (storePlan w s).frm = s.frm := rfl
@[simp] theorem storePlan_tmr (w : PlanWork) (s : State) : (storePlan w s).tmr = s.tmr := rfl
@[simp] theorem storePlan_host (w : PlanWork) (s : State) : (storePlan w s).host = s.host := rfl
@[simp] theorem storePlan_transport (w : PlanWork) (s : State) : (storePlan w s).transport = s.transport := rfl
@[simp] theorem storePlan_wakes (w : PlanWork) (s : State) : (storePlan w s).wakes = s.wakes := rfl
@[simp] theorem storePlan_trace (w : PlanWork) (s : State) : (storePlan w s).trace = s.trace := rfl

/-! ## Round trips by their frame -/

/-- The phase a round trip goes on to (41_write_sequencer R152). -/
def phaseAfter : RoundTrip → Phase
  | .wren => .write
  | .write => .delay

/-- An instruction that sends a frame makes one round trip of it. -/
theorem exec_sends {i : Instr} {rt : RoundTrip} {out : List Byte} (h : sends i = some (rt, out))
    (s : State) : exec i s = transfer out rt (phaseAfter rt) s := by
  cases i <;> simp [sends] at h <;> obtain ⟨rfl, rfl⟩ := h <;> rfl

/-! ## Payload bytes of a plan -/

/-- Every segment reads inside the payload. -/
theorem all_covers_iff (pay : Payload) (segs : List PageSegment) :
    segs.all pay.covers = true ↔
      ∀ g ∈ segs, g.sourceOffset.toNat + g.length.toNat ≤ pay.size := by
  simp [List.all_eq_true, Payload.covers]

/-- A segment that reads has a byte at each of its indexes. -/
theorem bytes_of_segmentData {pay : Payload} {g : PageSegment} (h : (pay.segmentData g).isSome = true) :
    ∀ a, g.sourceOffset.toNat ≤ a → a < g.sourceOffset.toNat + g.length.toNat →
      Memory.read pay.cells a ≠ none := by
  obtain ⟨bs, hb⟩ := Option.isSome_iff_exists.1 h
  obtain ⟨hle, hr⟩ := (Payload.memRead_eq_some _ _ _ _).1 hb
  obtain ⟨hl, hr⟩ := (Memory.readBytes_eq_some _ _ _ _).1 hr
  intro a h1 h2
  have := hr (a - g.sourceOffset.toNat) (by omega)
  rw [show g.sourceOffset.toNat + (a - g.sourceOffset.toNat) = a by omega] at this
  rw [this]
  simp; omega

/-- A payload of length `L` with a byte at every index reads whole. -/
theorem memRead_whole {pay : Payload} {L : Nat} (hs : pay.size = L)
    (hb : ∀ a, a < L → Memory.read pay.cells a ≠ none) : ∃ bs, pay.memRead 0 L = some bs := by
  obtain ⟨bs, h⟩ := Memory.readBytes_isSome pay.cells L 0 fun i hi => by simpa using hb i hi
  exact ⟨bs, (Payload.memRead_eq_some _ _ _ _).2 ⟨by omega, h⟩⟩

/-- A payload that reads whole has a byte at every index. -/
theorem bytes_of_memRead {pay : Payload} {L : Nat} {bs : List Byte} (h : pay.memRead 0 L = some bs) :
    ∀ a, a < L → Memory.read pay.cells a ≠ none := by
  obtain ⟨hle, hr⟩ := (Payload.memRead_eq_some _ _ _ _).1 h
  obtain ⟨hl, hr⟩ := (Memory.readBytes_eq_some _ _ _ _).1 hr
  intro a ha
  have := hr a ha
  rw [Nat.zero_add] at this
  rw [this]
  simp; omega

/-! ## The computed refusals -/

/-- EXECUTE is not refused exactly when its premises hold (41_write_sequencer R151). -/
theorem executeRefusal_none_iff (s : State) : executeRefusal s = none ↔ ExecutePremises s := by
  unfold executeRefusal
  by_cases h1 : s.cfg.written s.written = true
  swap
  · simp [h1]; intro h; exact absurd ((cfgWritten_iff _ _).2 h.cfgWritten) h1
  by_cases h0 : s.written.payload = true
  swap
  · simp [h0]; intro h; exact absurd h.payWritten h0
  by_cases h2 : s.plb.valid = true
  swap
  · simp [h0, h1, h2]; intro h; exact h2 h.valid
  by_cases h3 : s.plb.seg.all s.pay.covers = true
  swap
  · simp only [h0, h1, h2, h3]
    simp
    intro h
    exact h3 ((all_covers_iff _ _).2 h.bounds)
  have h3' := (all_covers_iff _ _).1 h3
  by_cases h4 : (s.plb.seg.all fun g => (s.pay.segmentData g).isSome) = true
  swap
  · simp only [h0, h1, h2, h3, h4]
    simp
    intro h
    apply h4
    rw [List.all_eq_true]
    intro g hg
    obtain ⟨d, hd⟩ := segmentData_isSome (h3' g hg) (h.bytes g hg)
    simp [hd]
  have h4' := List.all_eq_true.1 h4
  simp only [h0, h1, h2, h3, h4]
  by_cases h5 : (s.cfg.configOK && !(s.cfg.framesFit s.plb.seg)) = true
  · simp [h5]
    intro h
    simp at h5
    have := (framesFit_iff _ _).2 (h.frames ((configOK_iff _).1 h5.1))
    simp [this] at h5
  · simp [h5]
    refine ⟨(cfgWritten_iff _ _).1 h1, h0, h2, h3', fun g hg => bytes_of_segmentData (h4' g hg),
      fun hg => ?_⟩
    have hc := (configOK_iff _).2 hg
    simp [hc] at h5
    exact (framesFit_iff _ _).1 h5

/-- The page size of a planned request is 0 only where the configuration is not good. -/
theorem page_pos {s : State} {p L S : Nat} (ho : planOperands s = some (p, L, S))
    (hg : GoodConfig s.cfg) : 0 < p := by
  obtain ⟨-, rfl, -, -⟩ := planOperands_eq_some.1 ho
  exact Nat.pos_of_ne_zero fun h => hg.pageSize (BitVec.eq_of_toNat_eq h)

/-- WRITE_OP, its operands written, is not refused exactly when its premises hold (41_write_sequencer R181). -/
theorem writeOpRefusal_none_iff {s : State} {p L S : Nat} (ho : planOperands s = some (p, L, S))
    (hw : s.cfg.written s.written = true) (hy : s.written.payload = true) :
    writeOpRefusal p L S s = none ↔ WriteOpPremises s p L S := by
  unfold writeOpRefusal
  by_cases h1 : s.pay.size = L
  swap
  · simp [h1]; intro h; exact h1 h.payLength
  cases h2 : s.pay.memRead 0 L with
  | none =>
    simp [h1]
    intro h
    obtain ⟨bs, hb⟩ := memRead_whole h1 h.bytes
    rw [h2] at hb
    cases hb
  | some bs =>
  have hb := bytes_of_memRead h2
  by_cases h3 : rangeOverflow L S = true
  · simp [h1, h3]
    intro h
    have := (rangeOverflow_false_iff _ _).2 h.range
    simp [this] at h3
  have h3' := (rangeOverflow_false_iff L S).1 (by simpa using h3)
  by_cases hg : GoodConfig s.cfg
  · have hc := (configOK_iff _).2 hg
    rw [planSegments_closed (page_pos ho hg)]
    by_cases h5 : s.cfg.framesFit (closedPlan p L S) = true
    · simp [h1, h3, hc, h5]
      exact ⟨ho, (cfgWritten_iff _ _).1 hw, hy, h1, hb, h3', fun _ => (framesFit_iff _ _).1 h5⟩
    · simp [h1, h3, hc, h5]
      exact fun h => h5 ((framesFit_iff _ _).2 (h.frames hg))
  · have hc : s.cfg.configOK = false := by rw [← Bool.not_eq_true, configOK_iff]; exact hg
    simp [h1, h3, hc]
    exact ⟨ho, (cfgWritten_iff _ _).1 hw, hy, h1, hb, h3', fun h => absurd h hg⟩

/-- WRITE_OP where its premises hold (41_write_sequencer R181, R182). -/
theorem execWriteOp_of_premises {s : State} {p L S : Nat} (h : WriteOpPremises s p L S) (cap : Nat) :
    (s.cfg.configOK = false → execWriteOp cap s = .next (raise .configError s)) ∧
    (s.cfg.configOK = true → ∀ w, planRun p L S cap s.pln = .planned w →
      execWriteOp cap s = .next (beginSequence (storePlan w (openPlan cap s)))) ∧
    (s.cfg.configOK = true → ∀ w, planRun p L S cap s.pln = .overfull w →
      execWriteOp cap s = .next (raise .capacityError (storePlan w (openPlan cap s)))) := by
  have hw := (cfgWritten_iff _ _).2 h.cfgWritten
  have hr := (writeOpRefusal_none_iff h.operands hw h.payWritten).2 h
  refine ⟨fun hc => ?_, fun hc w hp => ?_, fun hc w hp => ?_⟩ <;>
    simp [execWriteOp, h.operands, h.payWritten, *]

/-- The segments of a request end inside it. -/
theorem closedPlan_source_le {p L S : Nat} (hp : 0 < p) (hL : L < 65536) (hS : S < 65536)
    (hr : L = 0 ∨ S + L - 1 ≤ 65535) :
    ∀ g ∈ closedPlan p L S, g.sourceOffset.toNat + g.length.toNat ≤ L := by
  intro g hg
  simp only [closedPlan, List.mem_map, List.mem_range] at hg
  obtain ⟨k, hk, rfl⟩ := hg
  obtain ⟨h1, h2, h3⟩ := closedSegment_numbers hp hk hS hr
  obtain ⟨b1, b2, b3, b4, b5, b6⟩ := slice_bounds hp hk
  have h3 := h3 hL
  omega

end Sys2Proof.Machine
end

