-- ==== Sys2Proof/Laws/PerInstr.lean ====
section
/-! SUPPORT. Sys2Proof/Laws/PerInstr.lean: laws stated of each instruction in turn. -/

namespace Sys2Proof.Laws.EncodedFrameFits

open Sys2Proof

/-- The frame a well-formed operation encodes to, if it is a frame, has at least one byte and at most `FRAME_MAX`
(60_exceptions R222: the block promises `1 ≤ |outBytes| ≤ FRAME_MAX`). -/
def Statement (i : Instr) : Prop :=
  i.wellFormed = true → ∀ format bytes, encode i = .frame format bytes →
    1 ≤ bytes.length ∧ bytes.length ≤ Config.frameMax

theorem plan (cap : Nat) : Statement (.plan cap) := by
  intro _ _ _ h; cases h

theorem execute : Statement .execute := by
  intro _ _ _ h; cases h

theorem writeOp (cap : Nat) : Statement (.writeOp cap) := by
  intro _ _ _ h; cases h

theorem reserved : Statement .reserved := by
  intro h; cases h

theorem wren (frame : List Byte) : Statement (.wren frame) := by
  intro hw _ _ h
  cases h
  simpa [Instr.wellFormed] using hw

theorem writeA1 (opcode lowAddress : Byte) (data : List Byte) :
    Statement (.writeA1 opcode lowAddress data) := by
  intro hw _ _ h
  cases h
  have hd := (dataFits_iff 2 data).1 hw
  rw [frameA1_length]
  omega

theorem writeA2b (opcode : Byte) (address : Word) (data : List Byte) :
    Statement (.writeA2b opcode address data) := by
  intro hw _ _ h
  cases h
  have hd := (dataFits_iff 3 data).1 hw
  rw [frameA2b_length]
  omega

theorem writeA2l (opcode : Byte) (address : Word) (data : List Byte) :
    Statement (.writeA2l opcode address data) := by
  intro hw _ _ h
  cases h
  have hd := (dataFits_iff 3 data).1 hw
  rw [frameA2l_length]
  omega

theorem delay (ms : Millis) : Statement (.delay ms) := by
  intro _ _ _ h; cases h

end Sys2Proof.Laws.EncodedFrameFits
end

