-- ==== Sys2Proof/Tests/Slice0.lean ====
section
/-! SUPPORT. Sys2Proof/Tests/Slice0.lean: the model's own tests. Part 1: ill-formed terms. Part 2: words written out
from the layouts of 30_encoding. Part 3: single steps, expected values from 95_test_vectors. Part 4: a witness for the
hypotheses of each obligation. -/

open Sys2Proof Sys2Proof.Machine

namespace Sys2Proof.Tests

/-! ## Helpers -/

/-- The next state, where there is one. -/
def nextOf : Host.Outcome State Fault Refusal → Option State
  | .next t => some t
  | .fault _ => none
  | .refused _ => none

/-- The refusal, where there is one. -/
def refusalOf : Host.Outcome State Fault Refusal → Option Refusal
  | .refused r => some r
  | .next _ => none
  | .fault _ => none

/-- A loaded payload. -/
def loaded (bytes : List Byte) : Payload := ⟨bytes.length, Memory.writeBytes [] 0 bytes⟩

/-- An idle block with a configuration (width 2, big, delay 5, opcodes 06 and 02), a request and a payload. -/
def ready (p L S : Word) (bytes : List Byte) : State :=
  { State.reset with
    cfg := ⟨p, 2, .big, 5, [0x06], 0x02⟩
    req := ⟨S, L⟩
    pay := loaded bytes
    written := ⟨true, true, true, true, true, true, true, true, true⟩ }

/-- The request `p = 4, L = 6, S = 2` of vector Q-7, with six payload bytes. -/
def demo : State := ready 4 6 2 [0, 1, 2, 3, 4, 5]

/-- Its plan (vector Q-7). -/
def demoPlan : List PageSegment := [⟨2, 2, 0⟩, ⟨4, 4, 2⟩]

/-- The demo request planned. -/
def demoPlanned : State := { demo with plb := ⟨demoPlan, 2, true⟩, result := .ok }

/-- The demo sequence at a slot and phase. -/
def demoAt (k : Word) (phase : Phase) : State :=
  { demo with plb := ⟨demoPlan, 2, false⟩, seq := ⟨k, phase⟩ }

/-- The demo block with an empty valid plan. -/
def demoEmpty : State := { demo with plb := ⟨[], 0, true⟩ }

/-- `s` with a page size that the configuration check rejects. -/
def zeroPage (s : State) : State := { s with cfg := { s.cfg with pageSize := 0 } }

/-- `s` with an address width that selects no format. -/
def badWidth (s : State) : State := { s with cfg := { s.cfg with addressByteWidth := 3 } }

/-- `s` with the Transport's answers given. -/
def answered (answers : List Response) (s : State) : State := { s with transport := answers }

/-- `s` with host moves. -/
def hosted (moves : List HostMove) (s : State) : State := { s with host := moves }

/-- `s` with a number of sleeps that end. -/
def waking (n : Nat) (s : State) : State := { s with wakes := n }

/-! ## Part 1: ill-formed terms are refused -/

theorem test_wellFormed_reserved : Instr.wellFormed .reserved = false := by decide
theorem test_wellFormed_wren_empty : Instr.wellFormed (.wren []) = false := by decide
theorem test_wellFormed_wren_long : Instr.wellFormed (.wren (List.replicate 516 0)) = false := by
  simp only [Instr.wellFormed, Config.frameMax, List.length_replicate]
  decide
theorem test_wellFormed_writeA1_empty : Instr.wellFormed (.writeA1 2 0 []) = false := by decide
theorem test_wellFormed_writeA1_long :
    Instr.wellFormed (.writeA1 2 0 (List.replicate 514 0)) = false := by
  simp only [Instr.wellFormed, dataFits, Config.frameMax, List.length_replicate]
  decide
theorem test_wellFormed_writeA2b_empty : Instr.wellFormed (.writeA2b 2 0 []) = false := by decide
theorem test_wellFormed_writeA2b_long :
    Instr.wellFormed (.writeA2b 2 0 (List.replicate 513 0)) = false := by
  simp only [Instr.wellFormed, dataFits, Config.frameMax, List.length_replicate]
  decide
theorem test_wellFormed_writeA2l_empty : Instr.wellFormed (.writeA2l 2 0 []) = false := by decide
theorem test_wellFormed_writeA2l_long :
    Instr.wellFormed (.writeA2l 2 0 (List.replicate 513 0)) = false := by
  simp only [Instr.wellFormed, dataFits, Config.frameMax, List.length_replicate]
  decide

/-- The longest frames are well formed (vectors L-1, L-3; F-5). -/
theorem test_wellFormed_longest :
    Instr.wellFormed (.wren (List.replicate 515 0)) = true ∧
    Instr.wellFormed (.writeA1 2 0 (List.replicate 513 0)) = true ∧
    Instr.wellFormed (.writeA2b 2 0 (List.replicate 512 0)) = true ∧
    Instr.wellFormed (.writeA2l 2 0 (List.replicate 512 0)) = true := by
  simp only [Instr.wellFormed, dataFits, Config.frameMax, List.length_replicate]
  decide

/-! ## Part 2: decoding of words written out bit by bit -/

/-- R91: op 01. -/
theorem test_decode_plan : decode (.cmd 0b01 (some 17)) = .ok (.plan 17) := by rfl
/-- R91: op 10. -/
theorem test_decode_execute : decode (.cmd 0b10 none) = .ok .execute := by rfl
/-- R91: op 11. -/
theorem test_decode_writeOp : decode (.cmd 0b11 (some 3)) = .ok (.writeOp 3) := by rfl
/-- R103: op 00. -/
theorem test_decode_reserved : decode (.cmd 0b00 none) = .error .reservedOperation := by rfl
/-- R91, R106: PLAN has a cap operand and EXECUTE none. -/
theorem test_decode_capacity : decode (.cmd 0b01 none) = .error .missingCapacity ∧
    decode (.cmd 0b10 (some 0)) = .error .strayCapacity := ⟨rfl, rfl⟩
/-- R92, vector F-2: an opcode and a two-byte fixed payload. -/
theorem test_decode_wren : decode (.frame .fWren [0b01010000, 0b00000000, 0b10100101]) =
    .ok (.wren [0x50, 0x00, 0xA5]) := by rfl
/-- R94, vector F-8: opcode, low address byte, data. -/
theorem test_decode_writeA1 :
    decode (.frame (.fWrite .a1) [0b00000010, 0b00000101, 0b01111110]) =
      .ok (.writeA1 0x02 0x05 [0x7E]) := by rfl
/-- R95, Scenario E: high address byte first. -/
theorem test_decode_writeA2b :
    decode (.frame (.fWrite .a2b) [0b00000010, 0b00010010, 0b00110100, 0b10101010]) =
      .ok (.writeA2b 0x02 0x1234 [0xAA]) := by rfl
/-- R96, Scenario E: low address byte first. -/
theorem test_decode_writeA2l :
    decode (.frame (.fWrite .a2l) [0b00000010, 0b00110100, 0b00010010, 0b10101010]) =
      .ok (.writeA2l 0x02 0x1234 [0xAA]) := by rfl
/-- R100: 32 bits of milliseconds. -/
theorem test_decode_delay :
    decode (.sleep 0b10000000000000000000000000000101) = .ok (.delay 0x80000005) := by rfl
/-- R101: a frame without data, R92: an empty frame. -/
theorem test_decode_short :
    decode (.frame (.fWrite .a1) [0x02, 0x05]) = .error .shortFrame ∧
    decode (.frame (.fWrite .a2b) [0x02, 0x12, 0x34]) = .error .shortFrame ∧
    decode (.frame .fWren []) = .error .emptyFrame := ⟨rfl, rfl, rfl⟩
/-- Table words: the reserved code is refused, the others give their row's instruction (log 20). -/
theorem test_decodeTableWord :
    decodeTableWord 2 0 = none ∧ decodeTableWord 2 1 = some (.plan 0) ∧
    decodeTableWord 2 2 = some .execute ∧ decodeTableWord 2 3 = some (.writeOp 0) ∧
    decodeTableWord 8 0x06 = some (.wren [0x06]) ∧
    decodeTableWord 16 0x3402 = some (.writeA1 0x02 0x34 [0]) ∧
    decodeTableWord 24 0x341202 = some (.writeA2b 0x02 0x1234 [0]) ∧
    decodeTableWord 32 5 = some (.delay 5) := by decide

/-! ## Part 3: single steps -/

/-- P-2 (source Scenario B): segments `{20,12,0}`, `{32,28,12}`. -/
theorem test_plan_scenario_b :
    (nextOf (exec (.plan 2) (ready 32 40 20 []))).map (fun t => (t.plb.seg, t.result)) =
      some ([⟨20, 12, 0⟩, ⟨32, 28, 12⟩], .ok) := by rfl
/-- K-2: three slots are not enough for `p = 32, L = 80, S = 20`. -/
theorem test_plan_capacity :
    (nextOf (exec (.plan 3) (ready 32 80 20 []))).map (fun t => (t.plb.valid, t.result)) =
      some (false, .error .capacityError) := by rfl
/-- Q-1: the empty plan sends nothing. -/
theorem test_execute_empty :
    (nextOf (exec .execute demoEmpty)).map (fun t => (t.trace, t.result, t.seq)) =
      some ([], .ok, ⟨0, .idle⟩) := by rfl
/-- E-12: the second EXECUTE is refused. -/
theorem test_execute_consumed :
    ((nextOf (exec .execute demoPlanned)).map fun t => refusalOf (exec .execute t)) =
      some (some .noPlan) := by rfl
/-- E-7: a zero page size is found before a missing slot. -/
theorem test_writeOp_config_first :
    (nextOf (exec (.writeOp 0) (zeroPage demo))).map (fun t => (t.result, t.trace)) =
      some (.error .configError, []) := by rfl
/-- E-13: a payload one byte short. -/
theorem test_writeOp_payload :
    refusalOf (exec (.writeOp 3) (ready 4 6 2 [0, 1, 2, 3, 4])) = some .payloadBounds := by rfl
/-- E-16: the reserved code. -/
theorem test_reserved : refusalOf (exec .reserved demo) = some .reservedOperation := by rfl
/-- F-1: the write-enable frame goes out and the WRITE phase follows. -/
theorem test_wren_success :
    (nextOf (exec (.wren [0x06]) (answered [.success []] (demoAt 0 .wren)))).map
      (fun t => (t.trace, t.seq)) = some ([.transfer [0x06] .success], ⟨0, .write⟩) := by rfl
/-- Q-4: the first transfer answers failure. -/
theorem test_wren_failure :
    (nextOf (exec (.wren [0x06]) (answered [.failure []] (demoAt 0 .wren)))).map
      (fun t => (t.result, t.seq)) = some (.error (.protocolError 1 .wren), ⟨0, .idle⟩) := by rfl
/-- F-6: one address byte. -/
theorem test_writeA1 :
    (nextOf (exec (.writeA1 0x02 0x00 [8, 9, 10, 11, 12, 13, 14, 15])
      (answered [.success []] (demoAt 0 .write)))).map (·.frm) =
      some [0x02, 0x00, 8, 9, 10, 11, 12, 13, 14, 15] := by rfl
/-- Scenario E, big: `[02, 12, 34, AA, BB]`. -/
theorem test_writeA2b :
    (nextOf (exec (.writeA2b 0x02 0x1234 [0xAA, 0xBB])
      (answered [.success []] (demoAt 0 .write)))).map (·.trace) =
      some [.transfer [0x02, 0x12, 0x34, 0xAA, 0xBB] .success] := by rfl
/-- Q-8: a fault at the addressed write of segment 2; its detail is copied. -/
theorem test_writeA2b_fault :
    (nextOf (exec (.writeA2b 0x02 4 [2, 3, 4, 5])
      (answered [.fault 77] (demoAt 1 .write)))).map (fun t => (t.result, t.seq)) =
      some (.error (.transportError 2 .write 77), ⟨1, .idle⟩) := by rfl
/-- Scenario E, little: `[02, 34, 12, AA, BB]`. -/
theorem test_writeA2l :
    (nextOf (exec (.writeA2l 0x02 0x1234 [0xAA, 0xBB])
      (answered [.success []] (demoAt 0 .write)))).map (·.trace) =
      some [.transfer [0x02, 0x34, 0x12, 0xAA, 0xBB] .success] := by rfl
/-- Q-3: the delay of the first of two segments is followed by the next write-enable. -/
theorem test_delay_next :
    (nextOf (exec (.delay 5) (waking 1 (demoAt 0 .delay)))).map (fun t => (t.trace, t.seq)) =
      some ([.sleep 5], ⟨1, .wren⟩) := by rfl
/-- Q-3: the delay of the last segment ends the operation. -/
theorem test_delay_last :
    (nextOf (exec (.delay 5) (waking 1 (demoAt 1 .delay)))).map (fun t => (t.result, t.seq)) =
      some (.ok, ⟨2, .idle⟩) := by rfl
/-- 60_exceptions R215: without an answer the block stays where it is. -/
theorem test_wren_waits :
    (nextOf (step (demoAt 0 .wren))).map (fun t => (t.seq, t.trace)) =
      some (⟨0, .wren⟩, []) := by rfl
/-- The host's placed word is what the next step runs (log 20). -/
theorem test_withFetchWord :
    (nextOf (step (State.reset.withFetchWord 24 0x341202))).map (·.frm) =
      some [0x02, 0x12, 0x34, 0x00] := by rfl

/-! ## Part 4: witnesses -/

theorem demo_good : GoodConfig demo.cfg := (configOK_iff _).1 (by decide)
theorem demo_written : CfgHoldsValues demo.written demo.cfg := (cfgWritten_iff _ _).1 (by decide)
theorem demo_writeOpPremises : WriteOpPremises demo 4 6 2 :=
  (writeOpRefusal_none_iff (by rfl) (by rfl) (by rfl)).1 (by rfl)
theorem demoPlanned_executePremises : ExecutePremises demoPlanned :=
  (executeRefusal_none_iff _).1 (by rfl)
theorem demoEmpty_executePremises : ExecutePremises demoEmpty :=
  (executeRefusal_none_iff _).1 (by rfl)
theorem zeroPage_bad (s : State) : ¬ GoodConfig (zeroPage s).cfg := fun h => h.pageSize rfl

/-- A loaded payload has a byte at each index. -/
theorem loaded_reads (bytes : List Byte) (a : Nat) (h : a < bytes.length) :
    Memory.read (loaded bytes).cells a ≠ none := by
  simp [loaded, Memory.read_writeBytes, h]

/-- The demo sequence meets the invariant at each phase of its last segment. -/
theorem demoAt_inv (phase : Phase) : Inv (demoAt 1 phase) where
  payload := by cases phase <;> exact ⟨by decide, by decide⟩
  slots := by cases phase <;> decide
  count := by cases phase <;> decide
  shape := by simp [demoAt, demoPlan, planShape, chainFrom, Config.addressMax]
  framesSent := by intro out status h; cases h
  running := fun _ =>
    { slot := by cases phase <;> decide
      consumed := rfl
      cfgWritten := demo_written
      cfgGood := demo_good
      data := by cases phase <;> decide
      frames := (framesFit_iff _ _).1 (by cases phase <;> decide) }

theorem witness_EncodedOperationDecodesBack :
    Instr.wellFormed (.plan 0) = true ∧ Instr.wellFormed .execute = true ∧
    Instr.wellFormed (.writeOp 65536) = true ∧ Instr.wellFormed (.wren [0xFF]) = true ∧
    Instr.wellFormed (.writeA1 0xFF 0xFF [0]) = true ∧
    Instr.wellFormed (.writeA2b 0x02 0xFFFF (List.replicate 512 0)) = true ∧
    Instr.wellFormed (.writeA2l 0x02 0x0000 [0xFF]) = true ∧
    Instr.wellFormed (.delay 0xFFFFFFFF) = true := by
  simp only [Instr.wellFormed, dataFits, Config.frameMax, List.length_replicate]
  decide

theorem witness_DecodedWordEncodesBack :
    decode (.frame (.fWrite .a2l) [0x02, 0x34, 0x12, 0xAA]) =
      .ok (.writeA2l 0x02 0x1234 [0xAA]) := by rfl

theorem witness_ReservedCodeIsRefused :
    (hosted [.start 0b00 none] demo).seq.phase = .idle ∧
    (hosted [.start 0b00 none] demo).host = .start 0b00 none :: [] := ⟨rfl, rfl⟩

/-- One state for each of the three formats, and a width without one. -/
theorem witness_WriteStepSelectedByConfiguration :
    (demoAt 1 .write).seq.phase = .write ∧
    (demoAt 1 .write).plb.seg[(demoAt 1 .write).seq.index.toNat]? = some ⟨4, 4, 2⟩ ∧
    (demoAt 1 .write).pay.memRead 2 4 = some [2, 3, 4, 5] ∧
    (demoAt 1 .write).cfg.addressByteWidth = 2 ∧
    (demoAt 1 .write).cfg.endianness = .big ∧
    { demo.cfg with addressByteWidth := 1 }.addressByteWidth = 1 ∧
    { demo.cfg with endianness := .little }.endianness = .little ∧
    { demo.cfg with addressByteWidth := 3 }.addressByteWidth ≠ 1 ∧
    { demo.cfg with addressByteWidth := 3 }.addressByteWidth ≠ 2 := by
  refine ⟨rfl, rfl, rfl, rfl, rfl, rfl, rfl, ?_, ?_⟩ <;> decide

/-- R97: at width 3 the WRITE step ends in ConfigError and sends nothing. -/
theorem test_write_badWidth :
    (nextOf (step (badWidth (demoAt 1 .write)))).map (fun t => (t.result, t.trace, t.seq)) =
      some (.error .configError, [], ⟨1, .idle⟩) := by rfl

theorem witness_EmittedWriteFrameReadsBack :
    Inv (demoAt 1 .write) ∧ (demoAt 1 .write).seq.phase = .write := ⟨demoAt_inv _, rfl⟩

theorem witness_IdleStepRunsStartedOperation :
    (hosted [.start 0b01 (some 2)] demo).seq.phase = .idle ∧
    (hosted [.start 0b01 (some 2)] demo).host = .start 0b01 (some 2) :: [] ∧
    decode (.cmd 0b01 (some 2)) = .ok (.plan 2) := ⟨rfl, rfl, rfl⟩

theorem witness_SequencerStepRunsDecodedFrame :
    ((demoAt 0 .wren).seq.phase = .wren ∧ (demoAt 0 .wren).cfg.wrenFrame = [0x06] ∧
      decode (.frame .fWren [0x06]) = .ok (.wren [0x06])) ∧
    ((demoAt 0 .write).seq.phase = .write ∧
      (demoAt 0 .write).plb.seg[(demoAt 0 .write).seq.index.toNat]? = some ⟨2, 2, 0⟩ ∧
      (demoAt 0 .write).cfg.writeFormat = some .a2b ∧
      segmentFrame (demoAt 0 .write) ⟨2, 2, 0⟩ = some [0x02, 0, 2, 0, 1] ∧
      decode (.frame (.fWrite .a2b) [0x02, 0, 2, 0, 1]) = .ok (.writeA2b 0x02 2 [0, 1])) ∧
    ((demoAt 0 .delay).seq.phase = .delay ∧ (demoAt 0 .delay).cfg.interPageDelayMs = 5 ∧
      decode (.sleep 5) = .ok (.delay 5)) :=
  ⟨⟨rfl, rfl, rfl⟩, ⟨rfl, rfl, rfl, rfl, rfl⟩, rfl, rfl, rfl⟩

theorem witness_IdleBlockWaitsForHost : demo.seq.phase = .idle ∧ demo.host = [] := ⟨rfl, rfl⟩

theorem witness_OperandsFrozenWhileSequencing :
    (demoAt 0 .wren).seq.phase ≠ .idle ∧ ∃ t, step (demoAt 0 .wren) = .next t :=
  ⟨by decide, _, rfl⟩

theorem witness_OperationsNeverWriteOperands : ∃ t, exec (.writeOp 2) demo = .next t := ⟨_, rfl⟩

theorem witness_HostLoadWritesItsRegister :
    demo.seq.phase = .idle ∧
    (hosted [.load (.pageSize 0xFFFF)] demo).host = .load (.pageSize 0xFFFF) :: [] ∧
    (hosted [.load (.addressByteWidth 3)] demo).host = .load (.addressByteWidth 3) :: [] ∧
    (hosted [.load (.endianness .little)] demo).host = .load (.endianness .little) :: [] ∧
    (hosted [.load (.interPageDelayMs 0)] demo).host = .load (.interPageDelayMs 0) :: [] ∧
    (hosted [.load (.wrenFrame [])] demo).host = .load (.wrenFrame []) :: [] ∧
    (hosted [.load (.writeOpcode 0xD8)] demo).host = .load (.writeOpcode 0xD8) :: [] ∧
    (hosted [.load (.startOffset 0xFFFF)] demo).host = .load (.startOffset 0xFFFF) :: [] ∧
    (hosted [.load (.totalLength 0)] demo).host = .load (.totalLength 0) :: [] :=
  ⟨rfl, rfl, rfl, rfl, rfl, rfl, rfl, rfl, rfl⟩

theorem witness_LoadedPayloadReadsBack :
    demo.seq.phase = .idle ∧
    (hosted [.load (.payload [7, 8])] demo).host = .load (.payload [7, 8]) :: [] ∧
    ([7, 8] : List Byte).length ≤ 65536 ∧ 1 + 1 ≤ ([7, 8] : List Byte).length ∧
    ([7, 8] : List Byte).length < 1 + 2 := by
  refine ⟨rfl, rfl, ?_, ?_, ?_⟩ <;> decide

/-- The demo request, and at the bounds: length 0, and a range that ends at 65535 (vectors P-10, X-4). -/
theorem witness_PlanCompletesWithClosedForm :
    (planOperands demo = some (4, 6, 2) ∧ 2 + 6 - 1 ≤ 65535 ∧ 0 < 4 ∧ pageCount 4 6 2 ≤ 2) ∧
    (planOperands (ready 256 16 0xFFF0 []) = some (256, 16, 65520) ∧ 65520 + 16 - 1 ≤ 65535 ∧
      pageCount 256 16 65520 ≤ 1) ∧
    (planOperands (ready 32 0 0xFFFF []) = some (32, 0, 65535) ∧ pageCount 32 0 65535 ≤ 0) := by
  decide

theorem demo_plan : ∃ t, exec (.plan 2) demo = .next t ∧ t.result = .ok ∧ t.plb.seg = demoPlan :=
  ⟨_, rfl, rfl, rfl⟩

theorem witness_PlanSegmentsStayInOnePage :
    planOperands demo = some (4, 6, 2) ∧
    ∃ t, exec (.plan 2) demo = .next t ∧ t.result = .ok ∧ (⟨4, 4, 2⟩ : PageSegment) ∈ t.plb.seg :=
  ⟨rfl, _, rfl, rfl, by decide⟩

theorem witness_PlanSegmentsAreContiguous :
    planOperands demo = some (4, 6, 2) ∧
    ∃ t, exec (.plan 2) demo = .next t ∧ t.result = .ok ∧ t.plb.seg[0]? = some ⟨2, 2, 0⟩ ∧
      t.plb.seg[0 + 1]? = some ⟨4, 4, 2⟩ :=
  ⟨rfl, _, rfl, rfl, rfl, rfl⟩

/-- Addresses 2 and 7 are the first and the last of the range. -/
theorem witness_PlanCoversRequestExactlyOnce :
    planOperands demo = some (4, 6, 2) ∧
    (∃ t, exec (.plan 2) demo = .next t ∧ t.result = .ok ∧ (⟨2, 2, 0⟩ : PageSegment) ∈ t.plb.seg) ∧
    (2 ≤ 2 ∧ 2 < 2 + 6) ∧ (2 ≤ 7 ∧ 7 < 2 + 6) :=
  ⟨rfl, ⟨_, rfl, rfl, by decide⟩, by decide, by decide⟩

theorem witness_PlanSourceOffsetsRebuildPayload :
    planOperands demo = some (4, 6, 2) ∧
    (∃ t, exec (.plan 2) demo = .next t ∧ t.result = .ok ∧ t.plb.seg[0]? = some ⟨2, 2, 0⟩ ∧
      t.plb.seg[0 + 1]? = some ⟨4, 4, 2⟩) ∧
    demo.pay.memRead 0 6 = some [0, 1, 2, 3, 4, 5] :=
  ⟨rfl, ⟨_, rfl, rfl, rfl, rfl⟩, rfl⟩

/-- Two different states with the same operands; and two where the request overflows. -/
theorem witness_PlanDependsOnItsOperandsOnly :
    (planOperands demo = planOperands demoPlanned ∧ demo ≠ demoPlanned ∧
      ∃ t, exec (.plan 2) demo = .next t) ∧
    (planOperands (ready 32 2 0xFFFF []) = planOperands (ready 32 2 0xFFFF [1]) ∧
      exec (.plan 2) (ready 32 2 0xFFFF []) = .refused .rangeOverflow) :=
  ⟨⟨rfl, by decide, _, rfl⟩, rfl, rfl⟩

/-- P-28: two whole pages from 32; and no page at all. -/
theorem witness_PlanOfWholePages :
    (planOperands (ready 32 64 32 []) = some (32, 2 * 32, 32) ∧ 0 < 32 ∧ 32 % 32 = 0 ∧
      32 + 2 * 32 - 1 ≤ 65535 ∧ 2 ≤ 2 ∧ 0 < 2) ∧
    planOperands (ready 32 0 64 []) = some (32, 0 * 32, 64) := by decide

/-- K-1 and K-2: four segments in 4 and in 3 slots. -/
theorem witness_CapacityErrorExactlyWhenPlanTooLong :
    planOperands (ready 32 80 20 []) = some (32, 80, 20) ∧ 20 + 80 - 1 ≤ 65535 ∧ 0 < 32 ∧
    pageCount 32 80 20 = 4 ∧
    (∃ t, exec (.plan 3) (ready 32 80 20 []) = .next t ∧ t.result = .error .capacityError) ∧
    (∃ t, exec (.plan 4) (ready 32 80 20 []) = .next t ∧ t.result = .ok) :=
  ⟨rfl, by decide, by decide, by decide, ⟨_, rfl, rfl⟩, _, rfl, rfl⟩

/-- P-16: the bound is reached. -/
theorem witness_SizedBufferNeverOverflows :
    planOperands (ready 8 36 5 []) = some (8, 36, 5) ∧ (36 + 8 - 1) / 8 + 1 ≤ 6 ∧
    ∃ t, exec (.plan 6) (ready 8 36 5 []) = .next t := ⟨rfl, by decide, _, rfl⟩

/-- X-4. -/
theorem witness_ZeroLengthPlanIsEmpty :
    planOperands (ready 32 0 0xFFFF []) = some (32, 0, 65535) ∧ 0 < 32 := by decide

/-- One past the address space (X-2) and just inside it (X-3). -/
theorem witness_RangeOverflowIsRefused :
    (planOperands (ready 32 2 0xFFFF [1, 2]) = some (32, 2, 65535) ∧ 0 < 2 ∧
      65535 < 65535 + 2 - 1 ∧ CfgHoldsValues (ready 32 2 0xFFFF [1, 2]).written (ready 32 2 0xFFFF [1, 2]).cfg ∧
      (ready 32 2 0xFFFF [1, 2]).written.payload = true ∧
      (ready 32 2 0xFFFF [1, 2]).pay.size = 2 ∧
      (∀ a, a < 2 → Memory.read (ready 32 2 0xFFFF [1, 2]).pay.cells a ≠ none)) ∧
    (planOperands (ready 32 1 0xFFFF []) = some (32, 1, 65535) ∧ 65535 + 1 - 1 ≤ 65535) := by
  refine ⟨⟨by decide, by decide, by decide, (cfgWritten_iff _ _).1 (by decide), rfl, rfl, ?_⟩,
    by decide⟩
  decide

/-- X-5 and X-6. -/
theorem witness_ZeroPageSizePlanIsConfigError :
    (planOperands (ready 0 40 20 []) = some (0, 40, 20) ∧ 20 + 40 - 1 ≤ 65535) ∧
    planOperands (ready 0 0 0 []) = some (0, 0, 0) := by decide

theorem witness_PlanChangesOnlyPlanState :
    (∃ t, exec (.plan 2) demo = .next t) ∧ exec (.plan 2) State.reset = .refused .unwrittenOperand :=
  ⟨⟨_, rfl⟩, rfl⟩

theorem witness_PlanFinalWorkingRegisters :
    planOperands demo = some (4, 6, 2) ∧ ∃ t, exec (.plan 2) demo = .next t ∧ t.result = .ok :=
  ⟨rfl, _, rfl, rfl⟩

/-- Section 2.6 of 95_test_vectors: vector P-17 resumed at its third segment `{16, 8, 11}`. -/
theorem witness_ResumedPlanIsTailOfOldPlan :
    planOperands (ready 8 30 5 []) = some (8, 30, 5) ∧
    (∃ t, exec (.plan 5) (ready 8 30 5 []) = .next t ∧ t.result = .ok ∧
      t.plb.seg[2]? = some ⟨16, 8, 11⟩) ∧
    planOperands (ready 8 19 16 []) =
      some (8, 30 - (11 : Word).toNat, (16 : Word).toNat) :=
  ⟨rfl, ⟨_, rfl, rfl, rfl⟩, rfl⟩

/-- E-15, and the same for EXECUTE and WRITE_OP: reset, and one register missing. -/
theorem witness_UnwrittenOperandIsRefused :
    State.reset.written.pageSize = false ∧
    { demo.written with totalLength := false }.totalLength = false ∧
    ¬ CfgHoldsValues { demo.written with endianness := false } demo.cfg ∧
    State.reset.written.payload = false :=
  ⟨rfl, rfl, fun h => Bool.noConfusion (h.endianness rfl), rfl⟩

/-- Refusals for three reasons of R151, and a state that meets all premises. -/
theorem witness_ExecuteRefusedExactlyOnBrokenPremise :
    exec .execute State.reset = .refused .unwrittenOperand ∧
    exec .execute demo = .refused .noPlan ∧
    exec .execute { demoPlanned with pay := loaded [0, 1, 2, 3, 4] } = .refused .payloadBounds ∧
    ExecutePremises demoPlanned :=
  ⟨rfl, rfl, rfl, demoPlanned_executePremises⟩

theorem witness_ExecuteStartsAtFirstWriteEnable :
    ExecutePremises demoPlanned ∧ GoodConfig demoPlanned.cfg ∧ demoPlanned.plb.seg ≠ [] :=
  ⟨demoPlanned_executePremises, demo_good, by decide⟩

theorem witness_ExecuteOfEmptyPlan :
    (ExecutePremises demoEmpty ∧ demoEmpty.plb.seg = [] ∧ GoodConfig demoEmpty.cfg) ∧
    (ExecutePremises (zeroPage demoEmpty) ∧ (zeroPage demoEmpty).plb.seg = [] ∧
      ¬ GoodConfig (zeroPage demoEmpty).cfg) :=
  ⟨⟨demoEmpty_executePremises, rfl, demo_good⟩,
    (executeRefusal_none_iff _).1 (by rfl), rfl, zeroPage_bad _⟩

theorem witness_InvalidConfigurationIsConfigError :
    demoPlanned.seq.phase = .idle ∧ ExecutePremises demoPlanned ∧
    (zeroPage demoPlanned).seq.phase = .idle ∧ ExecutePremises (zeroPage demoPlanned) ∧
    ¬ GoodConfig (zeroPage demoPlanned).cfg ∧ WriteOpPremises (zeroPage demo) 0 6 2 ∧
    ¬ GoodConfig (zeroPage demo).cfg :=
  ⟨rfl, demoPlanned_executePremises, rfl, (executeRefusal_none_iff _).1 (by rfl), zeroPage_bad _,
    (writeOpRefusal_none_iff (by rfl) (by rfl) (by rfl)).1 (by rfl), zeroPage_bad _⟩

/-- The EXECUTE, a step of its sequence, and a block without a plan. -/
theorem witness_ExecuteConsumesThePlan :
    (∃ t, exec .execute demoPlanned = .next t) ∧
    ((demoAt 1 .wren).seq.phase ≠ .idle ∧ (demoAt 1 .wren).plb.valid = false ∧
      ∃ t, step (answered [.success []] (demoAt 1 .wren)) = .next t) ∧
    (CfgHoldsValues demo.written demo.cfg ∧ demo.written.payload = true ∧ demo.plb.valid = false) :=
  ⟨⟨_, rfl⟩, ⟨by decide, rfl, _, rfl⟩, demo_written, rfl, rfl⟩

/-- The demo write, and a write of length 0. -/
theorem witness_WriteOpPlansAndStarts :
    (WriteOpPremises demo 4 6 2 ∧ GoodConfig demo.cfg ∧ pageCount 4 6 2 ≤ 2) ∧
    (WriteOpPremises (ready 4 0 2 []) 4 0 2 ∧ GoodConfig (ready 4 0 2 []).cfg ∧
      pageCount 4 0 2 ≤ 0) :=
  ⟨⟨demo_writeOpPremises, demo_good, by decide⟩,
    (writeOpRefusal_none_iff (by rfl) (by rfl) (by rfl)).1 (by rfl), (configOK_iff _).1 (by decide),
    by decide⟩

theorem witness_WriteOpChecksBeforeTransport :
    (∃ t, exec (.writeOp 2) demo = .next t) ∧
    (WriteOpPremises (zeroPage demo) 0 6 2 ∧ ¬ GoodConfig (zeroPage demo).cfg) ∧
    (WriteOpPremises demo 4 6 2 ∧ GoodConfig demo.cfg ∧ 1 < pageCount 4 6 2) :=
  ⟨⟨_, rfl⟩, ⟨(writeOpRefusal_none_iff (by rfl) (by rfl) (by rfl)).1 (by rfl), zeroPage_bad _⟩,
    demo_writeOpPremises, demo_good, by decide⟩

/-- Both ends: enough slots and one too few. -/
theorem witness_WriteOpIsPlanThenExecute :
    GoodConfig demo.cfg ∧ (∃ t, exec (.writeOp 2) demo = .next t) ∧
    ∃ t, exec (.writeOp 1) demo = .next t := ⟨demo_good, ⟨_, rfl⟩, _, rfl⟩

/-- 513 zero bytes in pages of 1024, at address 0. -/
def longSegment : State := ready 1024 513 0 (List.replicate 513 0)

/-- A short payload, and a 513-byte segment at width 2 (vectors E-13, L-2). -/
theorem witness_WriteOpRefusedOnBrokenPremise :
    (planOperands demo = some (4, 6, 2) ∧ CfgHoldsValues demo.written demo.cfg ∧ demo.written.payload = true ∧
      ({ demo with pay := loaded [0] }).pay.size ≠ 6) ∧
    (planOperands longSegment = some (1024, 513, 0) ∧ CfgHoldsValues longSegment.written longSegment.cfg ∧
      longSegment.written.payload = true ∧ longSegment.pay.size = 513 ∧
      (∀ a, a < 513 → Memory.read longSegment.pay.cells a ≠ none) ∧ 0 + 513 - 1 ≤ 65535 ∧
      GoodConfig longSegment.cfg ∧ ¬ FramesFit longSegment.cfg (closedPlan 1024 513 0)) := by
  refine ⟨⟨rfl, demo_written, rfl, by decide⟩, rfl, (cfgWritten_iff _ _).1 rfl, rfl, ?_, ?_, by decide,
    (configOK_iff _).1 rfl, fun h => absurd ((framesFit_iff _ _).2 h) (by decide)⟩
  · simp only [longSegment, ready, loaded, List.length_replicate]
  · intro a ha
    exact loaded_reads _ a (by simp only [List.length_replicate]; exact ha)

theorem witness_HostOperationsFrame :
    (∃ t, exec .execute demoPlanned = .next t) ∧ ∃ t, exec (.writeOp 2) demo = .next t :=
  ⟨⟨_, rfl⟩, _, rfl⟩

/-- The longest write-enable frame. -/
theorem witness_WriteEnableStepCompletes :
    (List.replicate 515 (0 : Byte)).length ≤ 515 ∧
    (answered [.success [1]] demo).transport = .success [1] :: [] :=
  ⟨by simp only [List.length_replicate]; decide, rfl⟩

/-- The longest data at each header. -/
theorem witness_WriteStepsComplete :
    (answered [.success [1]] demo).transport = .success [1] :: [] ∧
    2 + (List.replicate 513 (0 : Byte)).length ≤ 515 ∧
    3 + (List.replicate 512 (0 : Byte)).length ≤ 515 := by
  simp only [List.length_replicate]
  exact ⟨rfl, by decide, by decide⟩

/-- Slot 0 and the last slot of two. -/
theorem witness_DelayStepCompletes :
    (waking 1 (demoAt 0 .delay)).wakes = 0 + 1 ∧ (demoAt 0 .delay).seq.index.toNat + 1 < 2 ∧
    (demoAt 0 .delay).plb.count = 2 ∧ (demoAt 1 .delay).seq.index.toNat + 1 = 2 ∧
    (demoAt 1 .delay).plb.count = 2 := by decide

theorem witness_FailedTransferRaisesItsError :
    sends (.wren [0x06]) = some (.wren, [0x06]) ∧
    sends (.writeA1 2 5 [7]) = some (.write, [2, 5, 7]) ∧ ([0x06] : List Byte).length ≤ 515 ∧
    (answered [.failure []] demo).transport = .failure [] :: [] ∧
    (answered [.fault 9] demo).transport = .fault 9 :: [] :=
  ⟨rfl, rfl, by decide, rfl, rfl⟩

theorem witness_RejectedResponseRaisesProtocolError :
    ([0x06] : List Byte).length ≤ 515 ∧
    (answered [.success [1]] demo).transport = .success [1] :: [] ∧
    (fun (_ : RoundTrip) (_ _ : List Byte) => false) .wren [0x06] [1] = false :=
  ⟨by decide, rfl, rfl⟩

theorem witness_ResponseBytesAreIgnored :
    sends (.wren [0x06]) ≠ none ∧ sends (.writeA2l 2 0 [1]) ≠ none := by decide

theorem witness_UnansweredRequestHangs :
    (Inv (demoAt 1 .write) ∧ (demoAt 1 .write).seq.phase ≠ .idle ∧
      (demoAt 1 .write).transport = []) ∧
    (Inv (demoAt 1 .delay) ∧ (demoAt 1 .delay).seq.phase ≠ .idle ∧
      (demoAt 1 .delay).wakes = 0) :=
  ⟨⟨demoAt_inv _, by decide, rfl⟩, demoAt_inv _, by decide, rfl⟩

theorem witness_LongFrameIsNeverHandedOver :
    sends (.wren (List.replicate 516 0)) = some (.wren, List.replicate 516 0) ∧
    515 < (List.replicate 516 (0 : Byte)).length :=
  ⟨rfl, by simp only [List.length_replicate]; decide⟩

/-- `n` successes. -/
def successes (n : Nat) : List (List Byte) := List.replicate n []

/-- The host starts EXECUTE on the demo plan; the Transport answers `n` successes and then `more`. -/
def executing (n : Nat) (more : List Response) : State :=
  waking 2 (answered ((successes n).map .success ++ more) (hosted [.start 0b10 none] demoPlanned))

/-- The host starts WRITE_OP on the demo request; the Transport answers four successes. -/
def writing : State :=
  waking 2 (answered ((successes 4).map .success ++ []) (hosted [.start 0b11 (some 2)] demo))

theorem executing_premises (n : Nat) (more : List Response) : ExecutePremises (executing n more) :=
  let h := demoPlanned_executePremises
  ⟨h.cfgWritten, h.payWritten, h.valid, h.bounds, h.bytes, h.frames⟩

/-- The demo plan of two segments, four successes, two sleeps. -/
theorem witness_ExecuteWithAllTransfersSucceeding :
    (executing 4 []).seq.phase = .idle ∧ (executing 4 []).host = .start 0b10 none :: [] ∧
    ExecutePremises (executing 4 []) ∧ GoodConfig (executing 4 []).cfg ∧
    (executing 4 []).plb.count ≤ 65535 ∧
    (successes 4).length = 2 * (executing 4 []).plb.count ∧
    (executing 4 []).transport = (successes 4).map .success ++ [] ∧
    (executing 4 []).plb.count ≤ (executing 4 []).wakes :=
  ⟨rfl, rfl, executing_premises _ _, demo_good, by decide, by decide, rfl, by decide⟩

/-- Failures at the write-enable (after 2 successes) and at the addressed write (after 3) of segment 2. -/
theorem witness_ExecuteStopsAtFirstFailedTransfer :
    ((executing 2 [.failure []]).seq.phase = .idle ∧
      (executing 2 [.failure []]).host = .start 0b10 none :: [] ∧
      ExecutePremises (executing 2 [.failure []]) ∧ GoodConfig (executing 2 [.failure []]).cfg ∧
      (executing 2 [.failure []]).plb.count ≤ 65535 ∧
      (successes 2).length < 2 * (executing 2 [.failure []]).plb.count ∧
      (Response.failure []).succeeded = false ∧
      (executing 2 [.failure []]).transport = (successes 2).map .success ++ .failure [] :: [] ∧
      (successes 2).length / 2 ≤ (executing 2 [.failure []]).wakes ∧
      (executing 2 [.failure []]).plb.seg[(successes 2).length / 2]? = some ⟨4, 4, 2⟩ ∧
      segmentFrame (executing 2 [.failure []]) ⟨4, 4, 2⟩ = some [0x02, 0, 4, 2, 3, 4, 5]) ∧
    (ExecutePremises (executing 3 [.fault 3]) ∧
      (successes 3).length < 2 * (executing 3 [.fault 3]).plb.count ∧
      (Response.fault 3).succeeded = false ∧
      (executing 3 [.fault 3]).transport = (successes 3).map .success ++ .fault 3 :: [] ∧
      (executing 3 [.fault 3]).plb.seg[(successes 3).length / 2]? = some ⟨4, 4, 2⟩) :=
  ⟨⟨rfl, rfl, executing_premises _ _, demo_good, by decide, by decide, rfl, rfl, by decide, rfl,
    rfl⟩, executing_premises _ _, by decide, rfl, rfl, rfl⟩

theorem witness_WriteOpAsksForEveryByteOnce :
    writing.seq.phase = .idle ∧ writing.host = .start 0b11 (some 2) :: [] ∧
    WriteOpPremises writing 4 6 2 ∧ GoodConfig writing.cfg ∧
    writing.cfg.writeFormat = some .a2b ∧ AddressFormat.a2b ≠ .a1 ∧
    writing.pay.memRead 0 6 = some [0, 1, 2, 3, 4, 5] ∧ pageCount 4 6 2 ≤ 2 ∧
    (successes 4).length = 2 * pageCount 4 6 2 ∧
    writing.transport = (successes 4).map .success ++ [] ∧ pageCount 4 6 2 ≤ writing.wakes :=
  ⟨rfl, rfl, (writeOpRefusal_none_iff (by rfl) (by rfl) (by rfl)).1 (by rfl), demo_good, rfl, by decide,
    rfl, by decide, by decide, rfl, by decide⟩

theorem witness_EveryStepKeepsInvariant :
    Inv (demoAt 1 .wren) ∧ ∃ t, step (answered [.success []] (demoAt 1 .wren)) = .next t :=
  ⟨demoAt_inv _, _, rfl⟩

theorem witness_RunningSequenceNeverStops :
    Inv (demoAt 1 .delay) ∧ (demoAt 1 .delay).seq.phase ≠ .idle := ⟨demoAt_inv _, by decide⟩

theorem witness_ResetMoveClearsIdleBlock :
    (hosted [.reset] demoPlanned).seq.phase = .idle ∧
    (hosted [.reset] demoPlanned).host = .reset :: [] ∧
    demoPlanned.written ≠ State.reset.written ∧ demoPlanned.plb.valid = true ∧
    demoPlanned.result = .ok := by decide

/-- 10_state R39, 70_reset_and_hazards R243: reset clears the plan and the operands and keeps `PLB.cap`. -/
theorem test_reset_keeps_cap :
    ∃ t, step (hosted [.reset] demoPlanned) = .next t ∧ t.plb = ⟨[], 2, false⟩ ∧
      t.written.pageSize = false ∧ t.result = .none := ⟨_, rfl, rfl, rfl, rfl⟩

/-- A transfer's error, and one of planning. -/
theorem witness_RaisedErrorLeavesBlockIdle :
    (∃ t, step (answered [.failure []] (demoAt 1 .wren)) = .next t ∧
      t.result = .error (.protocolError 2 .wren) ∧
      (answered [.failure []] (demoAt 1 .wren)).result ≠ .error (.protocolError 2 .wren)) ∧
    (∃ t, step (hosted [.start 0b01 (some 1)] demo) = .next t ∧
      t.result = .error .capacityError ∧ demo.result ≠ .error .capacityError) :=
  ⟨⟨_, rfl, rfl, by decide⟩, _, rfl, rfl, by decide⟩

theorem witness_ResultWrittenOnlyAtTheEnd :
    ∃ t, step (waking 1 (demoAt 1 .delay)) = .next t ∧
      t.result ≠ (waking 1 (demoAt 1 .delay)).result := ⟨_, rfl, by decide⟩

theorem witness_StepAddsAtMostOneEvent :
    ∃ t, step (answered [.success []] (demoAt 1 .write)) = .next t := ⟨_, rfl⟩

end Sys2Proof.Tests
end

section
/-! PROOFS. What the host operations, a round trip and a sleep leave unchanged, and what a host operation that
answers a next state has found true of its operands. -/

namespace Sys2Proof.Machine

/-! ## The host operations by what they answer -/

/-- A PLAN that answers a next state read a request in range, and ended in one of three ways (40_page_planner
R122, R131, R139). -/
theorem execPlan_next {cap : Nat} {s t : State} (h : execPlan cap s = .next t) :
    ∃ p L S, planOperands s = some (p, L, S) ∧ rangeOverflow L S = false ∧
      ((p = 0 ∧ t = raise .configError (openPlan cap s)) ∨
       (0 < p ∧ ∃ w, planRun p L S cap s.pln = .planned w ∧
         t = ((storePlan w (openPlan cap s)).setValid true).setResult .ok) ∨
       (0 < p ∧ ∃ w, planRun p L S cap s.pln = .overfull w ∧
         t = raise .capacityError (storePlan w (openPlan cap s)))) := by
  rcases execPlan_cases cap s with ⟨-, he⟩ | ⟨p, L, S, ho, ⟨-, he⟩ | ⟨hr, hp, he⟩ |
    ⟨hr, hp, w, hw, he⟩ | ⟨hr, hp, w, hw, he⟩⟩ <;> rw [he] at h <;> cases h
  · exact ⟨p, L, S, ho, hr, .inl ⟨hp, rfl⟩⟩
  · exact ⟨p, L, S, ho, hr, .inr (.inl ⟨hp, w, hw, rfl⟩)⟩
  · exact ⟨p, L, S, ho, hr, .inr (.inr ⟨hp, w, hw, rfl⟩)⟩

/-- An EXECUTE that answers a next state met its premises (41_write_sequencer R151). -/
theorem execExecute_next {s t : State} (h : execExecute s = .next t) :
    ExecutePremises s ∧
      ((GoodConfig s.cfg ∧ t = beginSequence s) ∨
       (¬ GoodConfig s.cfg ∧ t = raise .configError s)) := by
  rw [← configOK_iff, ← executeRefusal_none_iff]
  rcases execExecute_cases s with ⟨r, -, he⟩ | ⟨hr, hc, he⟩ | ⟨hr, hc, he⟩ <;> rw [he] at h <;> cases h
  · exact ⟨hr, .inl ⟨hc, rfl⟩⟩
  · exact ⟨hr, .inr ⟨by simp [hc], rfl⟩⟩

/-- A WRITE_OP that answers a next state met its premises (41_write_sequencer R181, R182). -/
theorem execWriteOp_next {cap : Nat} {s t : State} (h : execWriteOp cap s = .next t) :
    ∃ p L S, WriteOpPremises s p L S ∧
      ((¬ GoodConfig s.cfg ∧ t = raise .configError s) ∨
       (GoodConfig s.cfg ∧ ∃ w, planRun p L S cap s.pln = .planned w ∧
         t = beginSequence (storePlan w (openPlan cap s))) ∨
       (GoodConfig s.cfg ∧ ∃ w, planRun p L S cap s.pln = .overfull w ∧
         t = raise .capacityError (storePlan w (openPlan cap s)))) := by
  rcases execWriteOp_cases cap s with ⟨r, he⟩ | ⟨p, L, S, ho, hw, hy, hr, hend⟩
  · rw [he] at h; cases h
  refine ⟨p, L, S, (writeOpRefusal_none_iff ho hw hy).1 hr, ?_⟩
  rw [← configOK_iff]
  rcases hend with ⟨hc, he⟩ | ⟨hc, w, hp, he⟩ | ⟨hc, w, hp, he⟩ <;> rw [he] at h <;> cases h
  · exact .inl ⟨by simp [hc], rfl⟩
  · exact .inr (.inl ⟨hc, w, hp, rfl⟩)
  · exact .inr (.inr ⟨hc, w, hp, rfl⟩)

/-- A host load that answers a next state wrote its register. -/
theorem hostLoad_next {l : HostLoad} {s t : State} (h : hostLoad l s = .next t) :
    (∀ bytes, l = .payload bytes → bytes.length ≤ Config.addressMax + 1) ∧ t = applyLoad l s := by
  rcases hostLoad_cases l s with ⟨bytes, -, -, he⟩ | ⟨hlen, he⟩ <;> rw [he] at h <;> cases h
  exact ⟨hlen, rfl⟩

/-! ## Operands stay (10_state R41) -/

/-- The registers only the host writes, and its queue of moves, are the same in both states. -/
structure SameOperands (s t : State) : Prop where
  cfg : t.cfg = s.cfg
  req : t.req = s.req
  pay : t.pay = s.pay
  written : t.written = s.written
  host : t.host = s.host

/-- A round trip leaves the operands, the slots of the plan and the buffer's capacity (20_memory R79). -/
theorem transfer_frame {out : List Byte} {rt : RoundTrip} {nx : Phase} {s t : State}
    (h : transfer out rt nx s = .next t) :
    SameOperands s t ∧ t.plb.seg = s.plb.seg ∧ t.plb.cap = s.plb.cap := by
  obtain ⟨-, ⟨-, rfl⟩ | ⟨r, rest, -, rfl⟩⟩ := transfer_next h
  · exact ⟨⟨rfl, rfl, rfl, rfl, rfl⟩, rfl, rfl⟩
  · obtain ⟨hcfg, hreq, hpay, hwritten, -, hseg, hcap, -, -, -, hhost, -⟩ := afterAnswer_frame
      Config.respCheck out rt nx r ((s.setFrm out).setTransport rest)
    exact ⟨⟨hcfg, hreq, hpay, hwritten, hhost⟩, hseg, hcap⟩

/-- A sleep and its advance leave the operands and the plan buffer. -/
theorem sleep_frame {ms : Millis} {s t : State} (h : sleep ms s = .next t) :
    SameOperands s t ∧ t.plb = s.plb := by
  rcases sleep_cases ms s with ⟨-, he⟩ | ⟨n, -, he⟩ <;> rw [he] at h <;> cases h
  · exact ⟨⟨rfl, rfl, rfl, rfl, rfl⟩, rfl⟩
  · obtain ⟨hcfg, hreq, hpay, hwritten, -, hplb, -, -, hhost, -⟩ :=
      advance_frame (((s.setTmr ms).setWakes n).emit (.sleep ms))
    exact ⟨⟨hcfg, hreq, hpay, hwritten, hhost⟩, hplb⟩

theorem beginSequence_sameOperands (s : State) : SameOperands s (beginSequence s) := by
  obtain ⟨hcfg, hreq, hpay, hwritten, -, -, -, -, -, -, hhost, -⟩ := beginSequence_frame s
  exact ⟨hcfg, hreq, hpay, hwritten, hhost⟩

/-- PLAN writes no operand (40_page_planner R140). -/
theorem execPlan_sameOperands {cap : Nat} {s t : State} (h : execPlan cap s = .next t) :
    SameOperands s t := by
  obtain ⟨p, L, S, -, -, ⟨-, rfl⟩ | ⟨-, w, -, rfl⟩ | ⟨-, w, -, rfl⟩⟩ := execPlan_next h <;>
    exact ⟨rfl, rfl, rfl, rfl, rfl⟩

theorem execExecute_sameOperands {s t : State} (h : execExecute s = .next t) : SameOperands s t := by
  obtain ⟨-, ⟨-, rfl⟩ | ⟨-, rfl⟩⟩ := execExecute_next h
  · exact beginSequence_sameOperands s
  · exact ⟨rfl, rfl, rfl, rfl, rfl⟩

theorem execWriteOp_sameOperands {cap : Nat} {s t : State} (h : execWriteOp cap s = .next t) :
    SameOperands s t := by
  obtain ⟨p, L, S, -, ⟨-, rfl⟩ | ⟨-, w, -, rfl⟩ | ⟨-, w, -, rfl⟩⟩ := execWriteOp_next h
  · exact ⟨rfl, rfl, rfl, rfl, rfl⟩
  · obtain ⟨hcfg, hreq, hpay, hwritten, hhost⟩ :=
      beginSequence_sameOperands (storePlan w (openPlan cap s))
    exact ⟨hcfg, hreq, hpay, hwritten, hhost⟩
  · exact ⟨rfl, rfl, rfl, rfl, rfl⟩

/-- No operation and no sequencer step writes an operand or takes a host move (10_state R41). -/
theorem exec_sameOperands {i : Instr} {s t : State} (h : exec i s = .next t) : SameOperands s t := by
  cases i with
  | plan cap => exact execPlan_sameOperands h
  | execute => exact execExecute_sameOperands h
  | writeOp cap => exact execWriteOp_sameOperands h
  | reserved => cases h
  | wren frame => exact (transfer_frame h).1
  | writeA1 opcode lo data => exact (transfer_frame h).1
  | writeA2b opcode a data => exact (transfer_frame h).1
  | writeA2l opcode a data => exact (transfer_frame h).1
  | delay ms => exact (sleep_frame h).1

/-! ## `RESULT` is written at the end (10_state R33) -/

/-- Starting a sequence writes `RESULT` only where it ends at once (41_write_sequencer R153). -/
theorem beginSequence_result_or_idle (s : State) :
    (beginSequence s).result = s.result ∨ (beginSequence s).seq.phase = .idle := by
  rcases beginSequence_cases s with ⟨-, h⟩ | ⟨-, h⟩
  · exact .inr (by simp [h])
  · exact .inl (by simp [h])

/-- A raised transfer error ends a round trip; otherwise it leaves `RESULT`. -/
theorem transfer_result_or_idle {out : List Byte} {rt : RoundTrip} {nx : Phase} {s t : State}
    (h : transfer out rt nx s = .next t) : t.result = s.result ∨ t.seq.phase = .idle := by
  obtain ⟨-, ⟨-, rfl⟩ | ⟨r, rest, -, rfl⟩⟩ := transfer_next h
  · exact .inl rfl
  · rcases afterAnswer_cases Config.respCheck out rt nx r ((s.setFrm out).setTransport rest) with
      ha | ha | ⟨d, -, ha⟩
    · exact .inl (by simp [ha])
    · exact .inr (by simp [ha, WriteError.ofTransfer])
    · exact .inr (by simp [ha, WriteError.ofTransfer])

/-- The advance past the last slot writes `RESULT`; otherwise a sleep leaves it (41_write_sequencer R177). -/
theorem sleep_result_or_idle {ms : Millis} {s t : State} (h : sleep ms s = .next t) :
    t.result = s.result ∨ t.seq.phase = .idle := by
  rcases sleep_cases ms s with ⟨-, he⟩ | ⟨n, -, he⟩ <;> rw [he] at h <;> cases h
  · exact .inl rfl
  · rcases advance_cases (((s.setTmr ms).setWakes n).emit (.sleep ms)) with ⟨-, ha⟩ | ⟨-, ha⟩
    · exact .inl (by simp [ha])
    · exact .inr (by simp [ha])

/-- PLAN never moves the sequencer (40_page_planner R140). -/
theorem execPlan_seq {cap : Nat} {s t : State} (h : execPlan cap s = .next t) : t.seq = s.seq := by
  obtain ⟨p, L, S, -, -, ⟨-, rfl⟩ | ⟨-, w, -, rfl⟩ | ⟨-, w, -, rfl⟩⟩ := execPlan_next h <;> rfl

/-- A host operation started while the block is idle leaves `RESULT`, or the block is idle again. -/
theorem start_result_or_idle {op : BitVec 2} {cap : Option Nat} {i : Instr} {s t : State}
    (hd : decode (.cmd op cap) = .ok i) (hp : s.seq.phase = .idle) (h : exec i s = .next t) :
    t.result = s.result ∨ t.seq.phase = .idle := by
  rcases decodeCmd_cases hd with ⟨n, -, rfl⟩ | rfl | ⟨n, -, rfl⟩
  · exact .inr (by rw [execPlan_seq h, hp])
  · obtain ⟨-, ⟨-, rfl⟩ | ⟨-, rfl⟩⟩ := execExecute_next h
    · exact beginSequence_result_or_idle s
    · exact .inr hp
  · obtain ⟨p, L, S, -, ⟨-, rfl⟩ | ⟨-, w, -, rfl⟩ | ⟨-, w, -, rfl⟩⟩ := execWriteOp_next h
    · exact .inr hp
    · exact beginSequence_result_or_idle (storePlan w (openPlan n s))
    · exact .inr hp

/-! ## The obligations of tiers 1 and 2 -/

/-- Settles O11: each of the three running phases makes one round trip, one sleep, or raises. -/
theorem operandsFrozenWhileSequencing : Obligations.OperandsFrozenWhileSequencing := by
  intro s t hrun h
  have hframe : SameOperands s t ∧ t.plb.seg = s.plb.seg ∧ t.plb.cap = s.plb.cap := by
    rcases step_next_cases h with ⟨hp, -⟩ | ⟨hp, -⟩ | ⟨hp, -⟩ | ⟨hp, -⟩ | ⟨-, ht⟩ |
      ⟨-, g, format, data, -, -, -, ht⟩ | ⟨-, -, rfl⟩ | ⟨-, hs⟩
    · exact absurd hp hrun
    · exact absurd hp hrun
    · exact absurd hp hrun
    · exact absurd hp hrun
    · exact transfer_frame ht
    · exact transfer_frame ht
    · exact ⟨⟨rfl, rfl, rfl, rfl, rfl⟩, rfl, rfl⟩
    · obtain ⟨hsame, hplb⟩ := sleep_frame hs
      exact ⟨hsame, by rw [hplb], by rw [hplb]⟩
  obtain ⟨⟨hcfg, hreq, hpay, hwritten, hhost⟩, hseg, hcap⟩ := hframe
  exact ⟨hcfg, hreq, hpay, hwritten, hseg, hcap, hhost⟩

/-- Settles O12, by cases on the operation. -/
theorem operationsNeverWriteOperands : Obligations.OperationsNeverWriteOperands := by
  intro i s t h
  obtain ⟨hcfg, hreq, hpay, hwritten, hhost⟩ := exec_sameOperands h
  exact ⟨hcfg, hreq, hpay, hwritten, hhost⟩

/-- Settles O58: what each kind of step does to `RESULT`. -/
theorem resultWrittenOnlyAtTheEnd : Obligations.ResultWrittenOnlyAtTheEnd := by
  intro s t h hne
  suffices hr : t.result = s.result ∨ t.seq.phase = .idle from hr.resolve_left hne
  rcases step_next_cases h with ⟨-, -, rfl⟩ | ⟨hp, l, rest, -, hl⟩ | ⟨-, rest, -, rfl⟩ |
    ⟨hp, op, cap, rest, i, -, hd, he⟩ | ⟨-, ht⟩ | ⟨-, g, format, data, -, -, -, ht⟩ | ⟨-, -, rfl⟩ | ⟨-, hs⟩
  · exact .inl rfl
  · obtain ⟨-, rfl⟩ := hostLoad_next hl
    obtain ⟨-, -, -, hres, -⟩ := applyLoad_frame l (s.setHost rest)
    exact .inl hres
  · exact .inr rfl
  · exact start_result_or_idle (s := s.setHost rest) hd hp he
  · exact transfer_result_or_idle ht
  · exact transfer_result_or_idle ht
  · exact .inr rfl
  · exact sleep_result_or_idle hs

/-- Settles O13: a load is the host's next move. -/
theorem hostLoadWritesItsRegister : Obligations.HostLoadWritesItsRegister := by
  intro s rest hp
  refine ⟨?_, ?_, ?_, ?_, ?_, ?_, ?_, ?_⟩ <;> exact fun v hh => step_idle_load hp hh

/-- Settles O55: the values written out in `State.reset`. -/
theorem resetState : Obligations.ResetState :=
  ⟨rfl, rfl, rfl, rfl, rfl, Memory.read_nil⟩

/-- Settles O56: the reset move is `hostReset` once it is taken from the queue. -/
theorem resetMoveClearsIdleBlock : Obligations.ResetMoveClearsIdleBlock := fun _ _ hp hh =>
  ⟨_, step_idle_reset hp hh, rfl, rfl, rfl, rfl, Memory.read_nil, rfl, rfl, rfl, rfl⟩

end Sys2Proof.Machine
end

section
/-! PROOFS. The invariant is kept by every step: the part that holds in every phase (`Settled`), what the planner
leaves in the buffer, and what a running sequence keeps. -/

namespace Sys2Proof.Machine

/-! ## The shape of a plan (10_state R40) -/

/-- A filled plan buffer: within its capacity and the 16-bit count, its segments in a chain. -/
structure SlotsFit (b : Plb) : Prop where
  slots : b.count ≤ b.cap
  count : b.count ≤ 65535
  shape : planShape b.seg

theorem planShape_of_chainFrom {a : Nat} {segs : List PageSegment} (h : chainFrom a 0 segs) :
    planShape segs := by
  cases segs with
  | nil => trivial
  | cons g gs =>
    have ha : g.address.toNat = a := h.1
    simpa only [planShape, ha] using h

/-- The first slots of a chain are a chain. -/
theorem chainFrom_take {segs : List PageSegment} :
    ∀ {a o : Nat} (n : Nat), chainFrom a o segs → chainFrom a o (segs.take n) := by
  induction segs with
  | nil => intro a o n h; simpa using h
  | cons g gs ih =>
    intro a o n h
    cases n with
    | zero => trivial
    | succ n =>
      obtain ⟨ha, ho, hlen, hend, hrest⟩ := h
      exact ⟨ha, ho, hlen, hend, ih n hrest⟩

/-- The slices of the pages from `a` on follow each other, where `a` is the start of the range, the start of a page,
or the end of the range. -/
theorem slicesFrom_chain {p S a E : Nat} (hp : 0 < p) (hS : S ≤ a) (hL : E < S + 65536)
    (hE : E ≤ Config.addressMax + 1) (hpage : a = S ∨ a / p * p = a ∨ a = E) :
    chainFrom a (a - S) (slicesFrom p S a E) := by
  have hmax : Config.addressMax + 1 = 65536 := rfl
  by_cases hlt : a < E
  swap
  · have hnil : slicesFrom p S a E = [] := by simp [slicesFrom, pagesLeft, hlt]
    rw [hnil]; trivial
  obtain ⟨hlo, hhi, -⟩ := page_bounds hp a
  have hstart : max S (a / p * p) = a := by omega
  rw [slicesFrom_step hp hlt]
  have hboundary : (a / p + 1) * p / p * p = (a / p + 1) * p := by rw [Nat.mul_div_cancel _ hp]
  generalize hb : min E ((a / p + 1) * p) = b
  have hpage' : b = S ∨ b / p * p = b ∨ b = E := by
    rcases Nat.le_total E ((a / p + 1) * p) with h | h
    · exact .inr (.inr (by omega))
    · rw [show b = (a / p + 1) * p by omega]
      exact .inr (.inl hboundary)
  have hlen : (pageSlice p S E (a / p)).length.toNat = b - a := by
    simp only [pageSlice, hstart, hb, BitVec.toNat_ofNat]; omega
  refine ⟨?_, ?_, ?_, ?_, ?_⟩
  · simp only [pageSlice, hstart, BitVec.toNat_ofNat]; omega
  · simp only [pageSlice, hstart, BitVec.toNat_ofNat]; omega
  · omega
  · omega
  · rw [hlen, show a + (b - a) = b by omega, show a - S + (b - a) = b - S by omega]
    exact slicesFrom_chain hp (by omega) hL hE hpage'
termination_by E - a
decreasing_by omega

/-- The plan of a request in range is a chain from its start address (40_page_planner R126). -/
theorem closedPlan_chain {p L S : Nat} (hp : 0 < p) (hL : L < 65536) (hS : S < 65536)
    (hr : L = 0 ∨ S + L - 1 ≤ 65535) : chainFrom S 0 (closedPlan p L S) := by
  have hmax : Config.addressMax + 1 = 65536 := rfl
  rw [closedPlan_eq_slices hp]
  simpa using slicesFrom_chain (E := S + L) hp (Nat.le_refl S) (by omega) (by omega)
    (.inl rfl)

/-! ## What planning leaves in the buffer -/

/-- Planning that ends with a plan ends with the whole one, within the capacity. -/
theorem planRun_planned {p L S cap : Nat} {old : Pln} {w : PlanWork} (hp : 0 < p)
    (h : planRun p L S cap old = .planned w) : pageCount p L S ≤ cap ∧ w.segs = closedPlan p L S := by
  obtain ⟨hfits, hover⟩ := planRun_closed hp L S cap old
  by_cases hc : pageCount p L S ≤ cap
  · obtain ⟨w', hw, hsegs, -⟩ := hfits hc
    rw [hw] at h; cases h
    exact ⟨hc, hsegs⟩
  · obtain ⟨w', hw, -⟩ := hover (by omega)
    rw [hw] at h; cases h

/-- Planning that overfills the buffer ends with its first `cap` slots filled (40_page_planner R131). -/
theorem planRun_overfull {p L S cap : Nat} {old : Pln} {w : PlanWork} (hp : 0 < p)
    (h : planRun p L S cap old = .overfull w) :
    cap < pageCount p L S ∧ w.segs = (closedPlan p L S).take cap := by
  obtain ⟨hfits, hover⟩ := planRun_closed hp L S cap old
  by_cases hc : pageCount p L S ≤ cap
  · obtain ⟨w', hw, -⟩ := hfits hc
    rw [hw] at h; cases h
  · obtain ⟨w', hw, hsegs⟩ := hover (by omega)
    rw [hw] at h; cases h
    exact ⟨by omega, hsegs⟩

/-- However planning a request in range ends, the slots it leaves fit the buffer. -/
theorem planRun_slotsFit {p L S cap : Nat} {old : Pln} {w : PlanWork} (hp : 0 < p) (hL : L < 65536)
    (hS : S < 65536) (hr : L = 0 ∨ S + L - 1 ≤ 65535)
    (h : planRun p L S cap old = .planned w ∨ planRun p L S cap old = .overfull w) (valid : Bool) :
    SlotsFit ⟨w.segs, cap, valid⟩ := by
  have hchain := closedPlan_chain hp hL hS hr
  have hcount := pageCount_le hp L S
  rcases h with h | h
  · obtain ⟨hcap, hsegs⟩ := planRun_planned hp h
    refine ⟨?_, ?_, ?_⟩
    · simpa [Plb.count, hsegs] using hcap
    · simp only [Plb.count, hsegs, closedPlan_length]; omega
    · exact hsegs ▸ planShape_of_chainFrom hchain
  · obtain ⟨hcap, hsegs⟩ := planRun_overfull hp h
    refine ⟨?_, ?_, ?_⟩
    · simp [Plb.count, hsegs]
    · simp only [Plb.count, hsegs, List.length_take, closedPlan_length]; omega
    · exact hsegs ▸ planShape_of_chainFrom (chainFrom_take cap hchain)

/-! ## The part of the invariant that speaks of no phase -/

/-- The frame of a transfer event, if it is one, is not empty and fits `FRAME_MAX`. -/
def Event.fits (e : Event) : Prop :=
  ∀ out status, e = .transfer out status → 1 ≤ out.length ∧ out.length ≤ Config.frameMax

/-- What the invariant says in every phase. -/
structure Settled (s : State) : Prop where
  payload : s.pay.wf
  plan : SlotsFit s.plb
  sent : ∀ e ∈ s.trace, e.fits

/-- The invariant is its phase-free part and what holds while a sequence runs. -/
theorem inv_iff {s : State} : Inv s ↔ Settled s ∧ (s.seq.phase ≠ .idle → Running s) := by
  constructor
  · rintro ⟨hpay, hslots, hcount, hshape, hsent, hrun⟩
    exact ⟨⟨hpay, ⟨hslots, hcount, hshape⟩, fun e he out status heq => hsent out status (heq ▸ he)⟩, hrun⟩
  · rintro ⟨⟨hpay, ⟨hslots, hcount, hshape⟩, hsent⟩, hrun⟩
    exact ⟨hpay, hslots, hcount, hshape, fun out status he => hsent _ he out status rfl, hrun⟩

/-- An idle block meets the invariant when its phase-free part holds. -/
theorem Settled.inv_of_idle {s : State} (h : Settled s) (hp : s.seq.phase = .idle) : Inv s :=
  inv_iff.2 ⟨h, fun hn => absurd hp hn⟩

/-- The filled slots of a buffer fit it, valid or not. -/
theorem SlotsFit.of_slots {b c : Plb} (h : SlotsFit b) (hseg : c.seg = b.seg) (hcap : c.cap = b.cap) :
    SlotsFit c := by
  obtain ⟨hslots, hcount, hshape⟩ := h
  constructor
  · simpa only [Plb.count, hseg, hcap] using hslots
  · simpa only [Plb.count, hseg] using hcount
  · simpa only [hseg] using hshape

/-- A step that adds only fitting events and keeps payload and slots keeps the phase-free part. -/
theorem Settled.of_frame {s t : State} {events : List Event} (h : Settled s) (hpay : t.pay = s.pay)
    (hseg : t.plb.seg = s.plb.seg) (hcap : t.plb.cap = s.plb.cap)
    (htrace : t.trace = s.trace ++ events) (hfit : ∀ e ∈ events, e.fits) : Settled t where
  payload := hpay ▸ h.payload
  plan := h.plan.of_slots hseg hcap
  sent := by
    intro e he
    rw [htrace, List.mem_append] at he
    exact he.elim (h.sent e) (hfit e)

/-- A step that keeps payload, slots and trace keeps the phase-free part. -/
theorem Settled.of_same {s t : State} (h : Settled s) (hpay : t.pay = s.pay)
    (hseg : t.plb.seg = s.plb.seg) (hcap : t.plb.cap = s.plb.cap) (htrace : t.trace = s.trace) :
    Settled t :=
  h.of_frame (events := []) hpay hseg hcap (by simpa using htrace) (by simp)

theorem Settled.setHost {s : State} (h : Settled s) (rest : List HostMove) : Settled (s.setHost rest) :=
  h.of_same rfl rfl rfl rfl

theorem Settled.raise {s : State} (h : Settled s) (e : WriteError) : Settled (raise e s) :=
  h.of_same rfl rfl rfl rfl

/-- Planning keeps the phase-free part: it replaces the slots by ones that fit. -/
theorem Settled.storePlan {s : State} {w : PlanWork} {cap : Nat} (h : Settled s)
    (hfit : SlotsFit ⟨w.segs, cap, false⟩) : Settled (storePlan w (openPlan cap s)) where
  payload := h.payload
  plan := hfit
  sent := h.sent

/-! ## Host loads and reset -/

/-- A loaded payload lists exactly its indexes (10_state R28). -/
theorem loadedPayload_wf {bytes : List Byte} (h : bytes.length ≤ Config.addressMax + 1) :
    Payload.wf ⟨bytes.length, Memory.writeBytes [] 0 bytes⟩ := by
  refine ⟨h, ?_⟩
  simpa [List.range_eq_range'] using Memory.writeBytes_addresses bytes [] 0 (by simp)

/-- A load replaces the payload by a loaded one, or keeps it. -/
theorem applyLoad_pay_wf {l : HostLoad} {s : State} (hpay : s.pay.wf)
    (hlen : ∀ bytes, l = .payload bytes → bytes.length ≤ Config.addressMax + 1) :
    (applyLoad l s).pay.wf := by
  cases l with
  | payload bytes => exact loadedPayload_wf (hlen bytes rfl)
  | _ => exact hpay

theorem hostLoad_settled {l : HostLoad} {s t : State} (h : Settled s) (hl : hostLoad l s = .next t) :
    Settled t := by
  obtain ⟨hlen, rfl⟩ := hostLoad_next hl
  obtain ⟨-, hplb, -, -, -, -, -, -, -, htrace⟩ := applyLoad_frame l s
  exact ⟨applyLoad_pay_wf h.payload hlen, hplb ▸ h.plan, htrace ▸ h.sent⟩

theorem hostLoad_seq {l : HostLoad} {s t : State} (hl : hostLoad l s = .next t) : t.seq = s.seq := by
  obtain ⟨-, rfl⟩ := hostLoad_next hl
  obtain ⟨-, -, hseq, -⟩ := applyLoad_frame l s
  exact hseq

theorem slotsFit_nil (cap : Nat) (valid : Bool) : SlotsFit ⟨[], cap, valid⟩ :=
  ⟨Nat.zero_le _, Nat.zero_le _, trivial⟩

theorem hostReset_settled {s : State} (h : Settled s) : Settled (hostReset s) where
  payload := ⟨Nat.zero_le _, rfl⟩
  plan := slotsFit_nil _ _
  sent := h.sent

/-! ## Host operations -/

/-- A started sequence meets the invariant when every frame of its plan can be built (41_write_sequencer R151). -/
theorem beginSequence_inv {s : State} (h : Settled s) (hw : CfgHoldsValues s.written s.cfg)
    (hg : GoodConfig s.cfg) (hd : ∀ g ∈ s.plb.seg, s.pay.segmentData g ≠ none)
    (hf : FramesFit s.cfg s.plb.seg) : Inv (beginSequence s) := by
  rcases beginSequence_cases s with ⟨-, hb⟩ | ⟨hne, hb⟩ <;> rw [hb]
  · exact Settled.inv_of_idle (h.of_same rfl rfl rfl rfl) rfl
  · exact inv_iff.2 ⟨h.of_same rfl rfl rfl rfl, fun _ =>
      ⟨List.length_pos_iff.2 hne, rfl, hw, hg, hd, hf⟩⟩

theorem segmentData_ne_none {pay : Payload} {g : PageSegment}
    (hb : g.sourceOffset.toNat + g.length.toNat ≤ pay.size)
    (hv : ∀ a, g.sourceOffset.toNat ≤ a → a < g.sourceOffset.toNat + g.length.toNat →
      Memory.read pay.cells a ≠ none) : pay.segmentData g ≠ none :=
  Option.ne_none_iff_exists'.2 (segmentData_isSome hb hv)

theorem execPlan_inv {cap : Nat} {s t : State} (h : Settled s) (hp : s.seq.phase = .idle)
    (he : execPlan cap s = .next t) : Inv t := by
  have hidle : t.seq.phase = .idle := by rw [execPlan_seq he, hp]
  refine Settled.inv_of_idle ?_ hidle
  obtain ⟨p, L, S, ho, hr, hend⟩ := execPlan_next he
  obtain ⟨-, hL, hS⟩ := planOperands_bounds ho
  have hrange := (rangeOverflow_false_iff L S).1 hr
  rcases hend with ⟨-, rfl⟩ | ⟨hpos, w, hw, rfl⟩ | ⟨hpos, w, hw, rfl⟩
  · have hopened : Settled (openPlan cap s) := ⟨h.payload, slotsFit_nil _ _, h.sent⟩
    exact hopened.raise _
  · have hstored := h.storePlan (planRun_slotsFit hpos hL hS hrange (.inl hw) false)
    exact hstored.of_same rfl rfl rfl rfl
  · exact (h.storePlan (planRun_slotsFit hpos hL hS hrange (.inr hw) false)).raise _

theorem execExecute_inv {s t : State} (h : Settled s) (hp : s.seq.phase = .idle)
    (he : execExecute s = .next t) : Inv t := by
  obtain ⟨hprem, ⟨hg, rfl⟩ | ⟨-, rfl⟩⟩ := execExecute_next he
  · exact beginSequence_inv h hprem.cfgWritten hg
      (fun g hmem => segmentData_ne_none (hprem.bounds g hmem) (hprem.bytes g hmem)) (hprem.frames hg)
  · exact (h.raise _).inv_of_idle hp

theorem execWriteOp_inv {cap : Nat} {s t : State} (h : Settled s) (hp : s.seq.phase = .idle)
    (he : execWriteOp cap s = .next t) : Inv t := by
  obtain ⟨p, L, S, hprem, hend⟩ := execWriteOp_next he
  obtain ⟨-, hL, hS⟩ := planOperands_bounds hprem.operands
  rcases hend with ⟨-, rfl⟩ | ⟨hg, w, hw, rfl⟩ | ⟨hg, w, hw, rfl⟩
  · exact (h.raise _).inv_of_idle hp
  · have hpos := page_pos hprem.operands hg
    obtain ⟨-, hsegs⟩ := planRun_planned hpos hw
    have hstored := h.storePlan (planRun_slotsFit hpos hL hS hprem.range (.inl hw) false)
    have hdata : ∀ g ∈ w.segs, s.pay.segmentData g ≠ none := by
      intro g hmem
      have hle := closedPlan_source_le hpos hL hS hprem.range g (hsegs ▸ hmem)
      exact segmentData_ne_none (by rw [hprem.payLength]; exact hle)
        fun a _ ha => hprem.bytes a (by omega)
    have hframes : FramesFit s.cfg w.segs := hsegs ▸ hprem.frames hg
    exact beginSequence_inv hstored hprem.cfgWritten hg hdata hframes
  · have hpos := page_pos hprem.operands hg
    have hstored := h.storePlan (planRun_slotsFit hpos hL hS hprem.range (.inr hw) false)
    exact (hstored.raise _).inv_of_idle hp

/-- An operation started while the block is idle leaves a state that meets the invariant. -/
theorem start_inv {op : BitVec 2} {cap : Option Nat} {i : Instr} {s t : State}
    (hd : decode (.cmd op cap) = .ok i) (h : Settled s) (hp : s.seq.phase = .idle)
    (he : exec i s = .next t) : Inv t := by
  rcases decodeCmd_cases hd with ⟨n, -, rfl⟩ | rfl | ⟨n, -, rfl⟩
  · exact execPlan_inv h hp he
  · exact execExecute_inv h hp he
  · exact execWriteOp_inv h hp he

/-! ## Sequencer steps -/

/-- A running sequence stays one at any filled slot, while its operands and its plan stay. -/
theorem Running.of_same {s t : State} (h : Running s) (hsame : SameOperands s t)
    (hplb : t.plb = s.plb) (hslot : t.seq.index.toNat < s.plb.count) : Running t := by
  obtain ⟨-, hvalid, hw, hg, hd, hf⟩ := h
  obtain ⟨hcfg, -, hpay, hwritten, -⟩ := hsame
  constructor
  · rwa [hplb]
  · rwa [hplb]
  · rwa [hcfg, hwritten]
  · rwa [hcfg]
  · rwa [hplb, hpay]
  · rwa [hcfg, hplb]

/-- A round trip of a frame that is not empty keeps the invariant: it waits, goes on at the same slot, or ends the
sequence (41_write_sequencer R152, R164). -/
theorem transfer_inv {out : List Byte} {rt : RoundTrip} {nx : Phase} {s t : State} (h : Settled s)
    (hrun : Running s) (hout : 1 ≤ out.length) (ht : transfer out rt nx s = .next t) : Inv t := by
  obtain ⟨hsame, hseg, hcap⟩ := transfer_frame ht
  obtain ⟨hlen, ⟨-, rfl⟩ | ⟨r, rest, -, rfl⟩⟩ := transfer_next ht
  · exact inv_iff.2 ⟨h.of_same rfl rfl rfl rfl, fun _ => hrun.of_same hsame rfl hrun.slot⟩
  have hfit : Event.fits (.transfer out r.status) := by
    rintro _ _ ⟨rfl, rfl⟩
    exact ⟨hout, hlen⟩
  obtain ⟨-, -, -, -, -, -, -, -, -, -, -, -, -, htrace⟩ :=
    afterAnswer_frame Config.respCheck out rt nx r ((s.setFrm out).setTransport rest)
  have hsettled := h.of_frame hsame.pay hseg hcap htrace (by simpa using hfit)
  rcases afterAnswer_cases Config.respCheck out rt nx r ((s.setFrm out).setTransport rest) with
    ha | ha | ⟨d, -, ha⟩
  · exact inv_iff.2 ⟨hsettled, fun _ =>
      hrun.of_same hsame (by rw [ha]; rfl) (by rw [ha]; exact hrun.slot)⟩
  · exact hsettled.inv_of_idle (by rw [ha]; rfl)
  · exact hsettled.inv_of_idle (by rw [ha]; rfl)

/-- The advance keeps a running sequence at a filled slot, or ends it (41_write_sequencer R173). -/
theorem advance_inv {s : State} (h : Settled s) (hrun : Running s) : Inv (advance s) := by
  rcases advance_cases s with ⟨hnext, ha⟩ | ⟨-, ha⟩ <;> rw [ha]
  · have hcount : s.plb.seg.length ≤ 65535 := h.plan.count
    have hslot : (s.seq.index + 1).toNat < s.plb.count := by
      rw [BitVec.toNat_add, Nat.mod_eq_of_lt] <;> simp [Plb.count] <;> omega
    exact inv_iff.2 ⟨h.of_same rfl rfl rfl rfl, fun _ =>
      hrun.of_same ⟨rfl, rfl, rfl, rfl, rfl⟩ rfl hslot⟩
  · exact Settled.inv_of_idle (h.of_same rfl rfl rfl rfl) rfl

theorem sleep_inv {ms : Millis} {s t : State} (h : Settled s) (hrun : Running s)
    (hs : sleep ms s = .next t) : Inv t := by
  rcases sleep_cases ms s with ⟨-, he⟩ | ⟨n, -, he⟩ <;> rw [he] at hs <;> cases hs
  · exact inv_iff.2 ⟨h.of_same rfl rfl rfl rfl, fun _ =>
      hrun.of_same ⟨rfl, rfl, rfl, rfl, rfl⟩ rfl hrun.slot⟩
  · have hfit : ∀ e ∈ [Event.sleep ms], e.fits := by simp [Event.fits]
    exact advance_inv (h.of_frame rfl rfl rfl rfl hfit)
      (hrun.of_same ⟨rfl, rfl, rfl, rfl, rfl⟩ rfl hrun.slot)

/-! ## The obligations about the invariant -/

/-- Settles O52: reset is idle, with an empty payload, plan and trace. -/
theorem resetMeetsInvariant : Obligations.ResetMeetsInvariant :=
  Settled.inv_of_idle ⟨⟨Nat.zero_le _, rfl⟩, slotsFit_nil _ _, by simp [State.reset]⟩ rfl

/-- Settles O53: an idle step keeps the phase-free part and starts a sequence on its premises only; a running one
keeps its slot filled or ends. -/
theorem everyStepKeepsInvariant : Obligations.EveryStepKeepsInvariant := by
  intro s t hinv h
  obtain ⟨hset, hrun⟩ := inv_iff.1 hinv
  rcases step_next_cases h with ⟨-, -, rfl⟩ | ⟨hp, l, rest, -, hl⟩ | ⟨-, rest, -, rfl⟩ |
    ⟨hp, op, cap, rest, i, -, hd, he⟩ | ⟨hp, ht⟩ | ⟨hp, g, format, data, -, -, -, ht⟩ |
    ⟨hp, hnone, -⟩ | ⟨hp, hs⟩
  · exact hinv
  · exact (hostLoad_settled (hset.setHost rest) hl).inv_of_idle (by rw [hostLoad_seq hl]; exact hp)
  · exact (hostReset_settled (hset.setHost rest)).inv_of_idle rfl
  · exact start_inv hd (hset.setHost rest) hp he
  · have hr := hrun (by simp [hp])
    exact transfer_inv hset hr (List.length_pos_iff.2 hr.cfgGood.wrenFrame) ht
  · exact transfer_inv hset (hrun (by simp [hp])) (by simp) ht
  · obtain ⟨f, hf, -⟩ := writeFormat_of_good (hrun (by simp [hp])).cfgGood
    simp [hnone] at hf
  · exact sleep_inv hset (hrun (by simp [hp])) hs

end Sys2Proof.Machine
end

section
/-! PROOFS. A loaded payload reads back, a frame out of reach is refused, and what each kind of step adds to the
trace (20_memory). -/

namespace Sys2Proof.Machine

/-! ## Memory reads (20_memory R62) -/

/-- A loaded payload reads whole as the bytes loaded. -/
theorem loadedPayload_memRead (bytes : List Byte) :
    Payload.memRead ⟨bytes.length, Memory.writeBytes [] 0 bytes⟩ 0 bytes.length = some bytes := by
  refine (Payload.memRead_eq_some _ _ _ _).2 ⟨by simp, ?_⟩
  refine (Memory.readBytes_eq_some _ _ _ _).2 ⟨rfl, fun i hi => ?_⟩
  rw [Memory.read_writeBytes, if_pos (by omega), Nat.zero_add, Nat.sub_zero]

/-- `MemRead` past the end of the payload is not defined. -/
theorem Payload.memRead_eq_none {pay : Payload} {addr n : Nat} (h : pay.size < addr + n) :
    pay.memRead addr n = none :=
  if_neg (Nat.not_le.2 h)

/-- A payload that the 16-bit index reaches is loaded whole. -/
theorem hostLoad_payload {bytes : List Byte} (h : bytes.length ≤ 65536) (s : State) :
    hostLoad (.payload bytes) s = .next (applyLoad (.payload bytes) s) :=
  if_neg (Nat.not_lt.2 h)

/-- Settles O14: the load stores the bytes as one run, and inside it every read is a slice. -/
theorem loadedPayloadReadsBack : Obligations.LoadedPayloadReadsBack := by
  intro s bytes rest hp hh hlen
  refine ⟨applyLoad (.payload bytes) (s.setHost rest), ?_, rfl, rfl, ?_, ?_⟩
  · rw [step_idle_load hp hh, hostLoad_payload hlen]
  · exact fun addr n hin => Payload.memRead_slice (loadedPayload_memRead bytes) hin
  · exact fun addr n hout => Payload.memRead_eq_none hout

/-! ## Frames (20_memory R64) -/

/-- A round trip refuses a frame longer than `FRAME_MAX`, whatever the state. -/
theorem transfer_longFrame {out : List Byte} (h : Config.frameMax < out.length) (rt : RoundTrip)
    (nx : Phase) (s : State) : transfer out rt nx s = .refused .frameTooLong :=
  if_pos h

/-- Settles O48: an instruction that sends a frame is one round trip of it. -/
theorem longFrameIsNeverHandedOver : Obligations.LongFrameIsNeverHandedOver := by
  intro s i rt out hsends hlen
  rw [exec_sends hsends, transfer_longFrame hlen]

/-! ## Events (20_memory R71, R74) -/

/-- A round trip adds no event while it waits, else the one transfer of the frame in `FRM`. -/
theorem transfer_trace {out : List Byte} {rt : RoundTrip} {nx : Phase} {s t : State}
    (h : transfer out rt nx s = .next t) :
    t.trace = s.trace ∨ ∃ status, t.frm = out ∧ t.trace = s.trace ++ [.transfer out status] := by
  obtain ⟨-, ⟨-, rfl⟩ | ⟨r, rest, -, rfl⟩⟩ := transfer_next h
  · exact .inl rfl
  · obtain ⟨-, -, -, -, -, -, -, -, hfrm, -, -, -, -, htrace⟩ :=
      afterAnswer_frame Config.respCheck out rt nx r ((s.setFrm out).setTransport rest)
    exact .inr ⟨r.status, hfrm, htrace⟩

/-- A sleep adds no event while it waits, else the one sleep of the delay in `TMR`. -/
theorem sleep_trace {ms : Millis} {s t : State} (h : sleep ms s = .next t) :
    t.trace = s.trace ∨ (t.tmr = ms ∧ t.trace = s.trace ++ [.sleep ms]) := by
  rcases sleep_cases ms s with ⟨-, he⟩ | ⟨n, -, he⟩ <;> rw [he] at h <;> cases h
  · exact .inl rfl
  · obtain ⟨-, -, -, -, -, -, -, htmr, -, -, -, htrace, -⟩ :=
      advance_frame (((s.setTmr ms).setWakes n).emit (.sleep ms))
    exact .inr ⟨htmr, htrace⟩

theorem beginSequence_trace (s : State) : (beginSequence s).trace = s.trace := by
  obtain ⟨-, -, -, -, -, -, -, -, -, -, -, -, -, htrace⟩ := beginSequence_frame s
  exact htrace

/-- The own step of a host operation adds no event: what a sequence sends comes with its steps. -/
theorem start_trace {op : BitVec 2} {cap : Option Nat} {i : Instr} {s t : State}
    (hd : decode (.cmd op cap) = .ok i) (h : exec i s = .next t) : t.trace = s.trace := by
  rcases decodeCmd_cases hd with ⟨n, -, rfl⟩ | rfl | ⟨n, -, rfl⟩
  · obtain ⟨p, L, S, -, -, ⟨-, rfl⟩ | ⟨-, w, -, rfl⟩ | ⟨-, w, -, rfl⟩⟩ := execPlan_next h <;> rfl
  · obtain ⟨-, ⟨-, rfl⟩ | ⟨-, rfl⟩⟩ := execExecute_next h
    · exact beginSequence_trace s
    · rfl
  · obtain ⟨p, L, S, -, ⟨-, rfl⟩ | ⟨-, w, -, rfl⟩ | ⟨-, w, -, rfl⟩⟩ := execWriteOp_next h
    · rfl
    · exact beginSequence_trace (storePlan w (openPlan n s))
    · rfl

theorem hostLoad_trace {l : HostLoad} {s t : State} (h : hostLoad l s = .next t) :
    t.trace = s.trace := by
  obtain ⟨-, rfl⟩ := hostLoad_next h
  obtain ⟨-, -, -, -, -, -, -, -, -, htrace⟩ := applyLoad_frame l s
  exact htrace

/-- Settles O59: only the round trip at WREN or WRITE and the sleep at DELAY add to the trace. -/
theorem stepAddsAtMostOneEvent : Obligations.StepAddsAtMostOneEvent := by
  intro s t h
  rcases step_next_cases h with ⟨-, -, rfl⟩ | ⟨-, l, rest, -, hl⟩ | ⟨-, rest, -, rfl⟩ |
    ⟨-, op, cap, rest, i, -, hd, he⟩ | ⟨hp, ht⟩ | ⟨hp, g, format, data, -, -, -, ht⟩ | ⟨-, -, rfl⟩ |
    ⟨hp, hs⟩
  · exact .inl rfl
  · exact .inl (hostLoad_trace (s := s.setHost rest) hl)
  · exact .inl rfl
  · exact .inl (start_trace (s := s.setHost rest) hd he)
  · exact (transfer_trace ht).imp_right fun ⟨status, hfrm, htrace⟩ =>
      .inl ⟨_, status, .inl hp, hfrm, htrace⟩
  · exact (transfer_trace ht).imp_right fun ⟨status, hfrm, htrace⟩ =>
      .inl ⟨_, status, .inr hp, hfrm, htrace⟩
  · exact .inl rfl
  · exact (sleep_trace hs).imp_right fun ⟨htmr, htrace⟩ => .inr ⟨_, hp, htmr, htrace⟩

end Sys2Proof.Machine
end

section
/-! PROOFS. Decoder and encoder against each other: an addressed write is treated once for its three formats
(`writeInstr`), and the WRITE step is tied to what its frame reads back as. -/

namespace Sys2Proof.Machine

/-! ## Frames of a known format (30_encoding R92 to R96, R108) -/

/-- `WRITE.A1` is the addressed write in format A1 of any address with that low byte. -/
theorem writeInstr_a1_joinBytes (opcode hi lo : Byte) (data : List Byte) :
    writeInstr .a1 opcode (joinBytes hi lo) data = .writeA1 opcode lo data := by simp [writeInstr]

/-- An addressed write encodes to opcode, encoded address, data (30_encoding R93). -/
theorem encode_writeInstr (format : AddressFormat) (opcode : Byte) (address : Word) (data : List Byte) :
    encode (writeInstr format opcode address data) =
      .frame (.fWrite format) ([opcode] ++ encAddr format address ++ data) := by
  cases format <;> rfl

theorem wellFormed_writeInstr (format : AddressFormat) (opcode : Byte) (address : Word)
    (data : List Byte) :
    (writeInstr format opcode address data).wellFormed = dataFits (1 + format.width) data := by
  cases format <;> rfl

/-- An addressed-write frame with at least one data byte reads back in its format (30_encoding R101). -/
theorem decodeWrite_frame (format : AddressFormat) (opcode : Byte) (address : Word) {data : List Byte}
    (h : 1 ≤ data.length) : decodeWrite format ([opcode] ++ encAddr format address ++ data) =
      .ok (writeInstr format opcode address data) := by
  obtain ⟨d, ds, rfl⟩ := List.exists_cons_of_length_pos h
  cases format <;> simp [encAddr, decodeWrite, writeInstr]

/-- Whatever reads as an addressed write is one frame of the layout, with at least one data byte. -/
theorem decodeWrite_ok {format : AddressFormat} {bytes : List Byte} {i : Instr}
    (h : decodeWrite format bytes = .ok i) : ∃ opcode address data, 1 ≤ data.length ∧
      bytes = [opcode] ++ encAddr format address ++ data ∧ i = writeInstr format opcode address data := by
  unfold decodeWrite at h
  split at h <;> cases h
  case h_1 opcode lo d ds =>
    exact ⟨opcode, joinBytes 0 lo, d :: ds, by simp, by simp [encAddr], by simp [writeInstr]⟩
  case h_2 opcode hi lo d ds => exact ⟨opcode, joinBytes hi lo, d :: ds, by simp, by simp [encAddr], rfl⟩
  case h_3 opcode lo hi d ds => exact ⟨opcode, joinBytes hi lo, d :: ds, by simp, by simp [encAddr], rfl⟩

/-- A frame is read in its format exactly where it fits `FRAME_MAX` (20_memory R64). -/
theorem decode_fWrite_eq_ok {format : AddressFormat} {bytes : List Byte} {i : Instr} :
    decode (.frame (.fWrite format) bytes) = .ok i ↔
      bytes.length ≤ Config.frameMax ∧ decodeWrite format bytes = .ok i := by
  by_cases h : Config.frameMax < bytes.length
  · simp [decode, decodeFrame, h]
  · simp [decode, decodeFrame, h, Nat.le_of_not_lt h]

/-- A frame reads as a write-enable frame exactly where it is well formed as one (30_encoding R92). -/
theorem decode_fWren_eq_ok {bytes : List Byte} {i : Instr} :
    decode (.frame .fWren bytes) = .ok i ↔
      Instr.wellFormed (.wren bytes) = true ∧ i = .wren bytes := by
  simp only [decode, decodeFrame, Instr.wellFormed, Bool.and_eq_true, decide_eq_true_eq]
  by_cases hlong : Config.frameMax < bytes.length
  · simp [hlong, Nat.not_le_of_lt hlong]
  by_cases hempty : bytes.length = 0
  · simp [hempty]
  · simp [hlong, hempty, Nat.le_of_not_lt hlong, Nat.one_le_iff_ne_zero, eq_comm]

/-- A well-formed addressed write reads back. -/
theorem decode_encode_writeInstr {format : AddressFormat} {opcode : Byte} {address : Word}
    {data : List Byte} (h : dataFits (1 + format.width) data = true) :
    decode (encode (writeInstr format opcode address data)) =
      .ok (writeInstr format opcode address data) := by
  obtain ⟨hdata, hfits⟩ := (dataFits_iff _ _).1 h
  rw [encode_writeInstr, decode_fWrite_eq_ok]
  refine ⟨?_, decodeWrite_frame format opcode address hdata⟩
  simp only [List.length_append, List.length_singleton, encAddr_length]
  exact hfits

/-- Settles O1, by cases on the operation; the three addressed writes are one case. -/
theorem encodedOperationDecodesBack : Obligations.EncodedOperationDecodesBack := by
  intro i h
  cases i with
  | plan cap => rfl
  | execute => rfl
  | writeOp cap => rfl
  | reserved => cases h
  | wren frame => exact decode_fWren_eq_ok.2 ⟨h, rfl⟩
  | writeA1 opcode lo data =>
    rw [← writeInstr_a1_joinBytes opcode 0 lo data]
    exact decode_encode_writeInstr h
  | writeA2b opcode address data => exact decode_encode_writeInstr (format := .a2b) h
  | writeA2l opcode address data => exact decode_encode_writeInstr (format := .a2l) h
  | delay ms => rfl

/-- A command that decodes is the code and operand of a well-formed operation (30_encoding R91). -/
theorem encode_of_decode_cmd {op : BitVec 2} {cap : Option Nat} {i : Instr}
    (h : decode (.cmd op cap) = .ok i) : encode i = .cmd op cap ∧ i.wellFormed = true := by
  have hcode : ∀ c : BitVec 2, c = 0 ∨ c = 1 ∨ c = 2 ∨ c = 3 := by decide
  rcases hcode op with rfl | rfl | rfl | rfl
  · cases h
  · cases cap <;> cases h; exact ⟨rfl, rfl⟩
  · cases cap <;> cases h; exact ⟨rfl, rfl⟩
  · cases cap <;> cases h; exact ⟨rfl, rfl⟩

/-- Settles O2, by cases on the channel and format of the word. -/
theorem decodedWordEncodesBack : Obligations.DecodedWordEncodesBack := by
  intro e i h
  match e with
  | .cmd op cap => exact encode_of_decode_cmd h
  | .frame .fWren bytes =>
    obtain ⟨hwf, rfl⟩ := decode_fWren_eq_ok.1 h
    exact ⟨rfl, hwf⟩
  | .frame (.fWrite format) bytes =>
    obtain ⟨hlen, hread⟩ := decode_fWrite_eq_ok.1 h
    obtain ⟨opcode, address, data, hdata, rfl, rfl⟩ := decodeWrite_ok hread
    refine ⟨encode_writeInstr format opcode address data, ?_⟩
    rw [wellFormed_writeInstr, dataFits_iff]
    simp only [List.length_append, List.length_singleton, encAddr_length] at hlen
    exact ⟨hdata, hlen⟩
  | .sleep ms => cases h; exact ⟨rfl, rfl⟩

/-- Settles O3: each word is what its operation encodes to. -/
theorem writtenOutWordsDecode : Obligations.WrittenOutWordsDecode :=
  ⟨encodedOperationDecodesBack (.plan 3) rfl, encodedOperationDecodesBack .execute rfl,
    encodedOperationDecodesBack (.writeOp 3) rfl, encodedOperationDecodesBack (.wren [0x06]) rfl,
    encodedOperationDecodesBack (.writeA1 0x02 0x34 [0xAA, 0xBB]) rfl,
    encodedOperationDecodesBack (.writeA2b 0x02 0x1234 [0xAA, 0xBB]) rfl,
    encodedOperationDecodesBack (.writeA2l 0x02 0x1234 [0xAA, 0xBB]) rfl,
    encodedOperationDecodesBack (.delay 5) rfl⟩

/-! ## Host commands (30_encoding R91, R103) -/

/-- The start of an operation whose command does not decode is refused. -/
theorem step_idle_start_error {s : State} {op : BitVec 2} {cap : Option Nat} {rest : List HostMove}
    {e : DecodeError} (hp : s.seq.phase = .idle) (hh : s.host = .start op cap :: rest)
    (hd : decode (.cmd op cap) = .error e) : step s = .refused (commandRefusal e) := by
  simp [step, hp, hh, hostMove, hd]

/-- Code 00 decodes to no operation, whatever stands as its operand (30_encoding R103). -/
theorem decode_code00 (cap : Option Nat) : decode (.cmd 0b00 cap) = .error .reservedOperation := rfl

/-- Settles O4: the decoder's error is the refusal of the host's start. -/
theorem reservedCodeIsRefused : Obligations.ReservedCodeIsRefused :=
  ⟨decode_code00, fun _ => rfl, fun _ cap _ hp hh => step_idle_start_error hp hh (decode_code00 cap)⟩

/-- Settles O8: taking the move from the queue is `State.setHost`. -/
theorem idleStepRunsStartedOperation : Obligations.IdleStepRunsStartedOperation :=
  fun _ _ _ _ _ hp hh hd => step_idle_start hp hh hd

/-! ## Address bytes (30_encoding R98) -/

theorem extractLsb'_high_toNat (a : Word) : (a.extractLsb' 8 8).toNat = a.toNat / 256 := by
  have := a.isLt
  simp only [BitVec.extractLsb'_toNat, Nat.shiftRight_eq_div_pow]
  omega

theorem extractLsb'_low_toNat (a : Word) : (a.extractLsb' 0 8).toNat = a.toNat % 256 := by
  simp [BitVec.extractLsb'_toNat]

/-- The high byte is bits 15 to 8. -/
theorem highByte_eq_extractLsb' (a : Word) : highByte a = a.extractLsb' 8 8 :=
  BitVec.eq_of_toNat_eq (by rw [highByte_toNat, extractLsb'_high_toNat])

/-- The low byte is bits 7 to 0. -/
theorem lowByte_eq_extractLsb' (a : Word) : lowByte a = a.extractLsb' 0 8 :=
  BitVec.eq_of_toNat_eq (by rw [lowByte_toNat, extractLsb'_low_toNat])

/-- Settles O5: `encAddr` lists the high and the low byte in the format's order. -/
theorem addressBytesInConfiguredOrder : Obligations.AddressBytesInConfiguredOrder := by
  intro a
  rw [← highByte_eq_extractLsb', ← lowByte_eq_extractLsb']
  exact ⟨highByte_toNat a, lowByte_toNat a, rfl, rfl, rfl⟩

/-! ## The WRITE step (30_encoding R97, 41_write_sequencer R152) -/

/-- The WRITE step fetches the addressed write of its slot in the configured format. -/
theorem fetchWrite_eq_run {s : State} {g : PageSegment} {format : AddressFormat} {data : List Byte}
    (hg : s.plb.seg[s.seq.index.toNat]? = some g) (hf : s.cfg.writeFormat = some format)
    (hd : s.pay.segmentData g = some data) :
    fetchWrite s = .run (writeInstr format s.cfg.writeOpcode g.address data) := by
  have hslot : s.plb.planRead s.seq.index.toNat = some g := hg
  simp only [fetchWrite, hslot, hf, hd]

/-- The WRITE step runs the addressed write of its slot in the configured format. -/
theorem step_write_exec {s : State} {g : PageSegment} {format : AddressFormat} {data : List Byte}
    (hp : s.seq.phase = .write) (hg : s.plb.seg[s.seq.index.toNat]? = some g)
    (hd : s.pay.segmentData g = some data) (hf : s.cfg.writeFormat = some format) :
    step s = exec (writeInstr format s.cfg.writeOpcode g.address data) s := by
  rw [step_write hp hg hf hd, exec_writeInstr]

theorem writeFormat_eq_none {c : Cfg} (h1 : c.addressByteWidth ≠ 1) (h2 : c.addressByteWidth ≠ 2) :
    c.writeFormat = none := by
  unfold Cfg.writeFormat
  rw [if_neg h1, if_neg h2]

/-- Settles O6: the format that the configuration selects, and what the step then runs. -/
theorem writeStepSelectedByConfiguration : Obligations.WriteStepSelectedByConfiguration := by
  intro s g data hp hg hd
  rw [← lowByte_eq_extractLsb']
  refine ⟨fun hw => ?_, fun hw he => ?_, fun hw he => ?_, fun h1 h2 => ?_⟩
  · exact step_write_exec (format := .a1) hp hg hd (by simp [Cfg.writeFormat, hw])
  · exact step_write_exec (format := .a2b) hp hg hd (by simp [Cfg.writeFormat, hw, he])
  · exact step_write_exec (format := .a2l) hp hg hd (by simp [Cfg.writeFormat, hw, he])
  · exact step_write_badWidth hp hg (writeFormat_eq_none h1 h2)

/-- No segment of a chain is empty (10_state R40). -/
theorem chainFrom_length_pos {segs : List PageSegment} : ∀ {a o : Nat}, chainFrom a o segs →
    ∀ g ∈ segs, 1 ≤ g.length.toNat := by
  induction segs with
  | nil => simp
  | cons g gs ih =>
    rintro a o ⟨-, -, hlen, -, hrest⟩
    exact List.forall_mem_cons.2 ⟨hlen, ih hrest⟩

theorem planShape_length_pos {segs : List PageSegment} (h : planShape segs) :
    ∀ g ∈ segs, 1 ≤ g.length.toNat := by
  cases segs with
  | nil => simp
  | cons g gs => exact chainFrom_length_pos h

/-- Settles O7: the slot is filled, its format and data exist, and the frame of its addressed write fits. -/
theorem emittedWriteFrameReadsBack : Obligations.EmittedWriteFrameReadsBack := by
  intro s hinv hp
  obtain ⟨hslot, -, -, hgood, hdata, hframes⟩ := hinv.running (by simp [hp])
  have hmem := List.getElem_mem (l := s.plb.seg) hslot
  have hg := List.getElem?_eq_getElem (l := s.plb.seg) hslot
  generalize s.plb.seg[s.seq.index.toNat]'hslot = g at hmem hg
  obtain ⟨format, hf, hwidth⟩ := writeFormat_of_good hgood
  obtain ⟨data, hd⟩ := Option.ne_none_iff_exists'.1 (hdata g hmem)
  have hlen : data.length = g.length.toNat := Payload.memRead_length hd
  have hfits : dataFits (1 + format.width) data = true := by
    rw [dataFits_iff, hlen, hwidth]
    exact ⟨planShape_length_pos hinv.shape g hmem, hframes.write g hmem⟩
  have henc := encode_writeInstr format s.cfg.writeOpcode g.address data
  exact ⟨g, format, _, _, hg, hf, by simp only [segmentFrame, hf, hd], fetchWrite_eq_run hg hf hd, henc,
    henc ▸ decode_encode_writeInstr hfits⟩

/-! ## WRITE_OP against PLAN and EXECUTE (41_write_sequencer R181) -/

theorem execPlan_planned {s : State} {p L S cap : Nat} {w : PlanWork} (ho : planOperands s = some (p, L, S))
    (hr : rangeOverflow L S = false) (hp : 0 < p) (hw : planRun p L S cap s.pln = .planned w) :
    execPlan cap s = .next (((storePlan w (openPlan cap s)).setValid true).setResult .ok) := by
  simp [execPlan, ho, hr, hp.ne', hw]

theorem execPlan_overfull {s : State} {p L S cap : Nat} {w : PlanWork} (ho : planOperands s = some (p, L, S))
    (hr : rangeOverflow L S = false) (hp : 0 < p) (hw : planRun p L S cap s.pln = .overfull w) :
    execPlan cap s = .next (raise .capacityError (storePlan w (openPlan cap s))) := by
  simp [execPlan, ho, hr, hp.ne', hw]

theorem execExecute_of_premises {s : State} (h : ExecutePremises s) (hg : GoodConfig s.cfg) :
    execExecute s = .next (beginSequence s) := by
  simp [execExecute, (executeRefusal_none_iff s).2 h, (configOK_iff _).2 hg]

/-- Where WRITE_OP may run, its plan stored and valid meets the premises of EXECUTE. -/
theorem WriteOpPremises.executePremises {s t : State} {p L S : Nat} (h : WriteOpPremises s p L S)
    (hg : GoodConfig s.cfg) (hsame : SameOperands s t) (hvalid : t.plb.valid = true)
    (hseg : t.plb.seg = closedPlan p L S) : ExecutePremises t := by
  obtain ⟨hcfg, -, hpay, hwritten, -⟩ := hsame
  obtain ⟨-, hL, hS⟩ := planOperands_bounds h.operands
  have hinside := closedPlan_source_le (page_pos h.operands hg) hL hS h.range
  refine ⟨?_, ?_, hvalid, ?_, ?_, ?_⟩
  · rw [hcfg, hwritten]; exact h.cfgWritten
  · rw [hwritten]; exact h.payWritten
  · rw [hseg, hpay, h.payLength]; exact hinside
  · rw [hseg, hpay]
    intro g hmem a _ ha
    exact h.bytes a (Nat.lt_of_lt_of_le ha (hinside g hmem))
  · rw [hseg, hcfg]; exact h.frames

theorem beginSequence_of_nil {s : State} (h : s.plb.seg = []) :
    beginSequence s = ((s.setValid false).setSeq ⟨0, .idle⟩).setResult .ok := by
  simp [beginSequence, h]

theorem beginSequence_of_ne_nil {s : State} (h : s.plb.seg ≠ []) :
    beginSequence s = (s.setValid false).setSeq ⟨0, .wren⟩ := by
  simp [beginSequence, h]

/-- A sequence starts the same whatever `PLB.valid` and `RESULT` hold, but for the `RESULT` it keeps where the plan
is not empty. -/
theorem beginSequence_setValid_setResult (s : State) (v : Bool) (r : Result) :
    beginSequence s = { beginSequence ((s.setValid v).setResult r) with
      result := if s.plb.seg = [] then .ok else s.result } := by
  by_cases h : s.plb.seg = []
  · rw [if_pos h, beginSequence_of_nil h, beginSequence_of_nil (s := (s.setValid v).setResult r) h]
    rfl
  · rw [if_neg h, beginSequence_of_ne_nil h,
      beginSequence_of_ne_nil (s := (s.setValid v).setResult r) h]
    rfl

/-- Settles O38: both ends of the planning part, the whole plan and CapacityError. -/
theorem writeOpIsPlanThenExecute : Obligations.WriteOpIsPlanThenExecute := by
  intro s t cap hg h
  obtain ⟨p, L, S, hprem, hend⟩ := execWriteOp_next h
  have hp := page_pos hprem.operands hg
  have hr := (rangeOverflow_false_iff L S).2 hprem.range
  rcases hend with ⟨hbad, -⟩ | ⟨-, w, hw, rfl⟩ | ⟨-, w, hw, rfl⟩
  · exact absurd hg hbad
  · have hexec : ExecutePremises (((storePlan w (openPlan cap s)).setValid true).setResult .ok) :=
      hprem.executePremises hg ⟨rfl, rfl, rfl, rfl, rfl⟩ rfl (planRun_planned hp hw).2
    exact ⟨_, execPlan_planned hprem.operands hr hp hw, .inr ⟨rfl, _, execExecute_of_premises hexec hg,
      beginSequence_setValid_setResult (storePlan w (openPlan cap s)) true .ok⟩⟩
  · exact ⟨_, execPlan_overfull hprem.operands hr hp hw, .inl ⟨rfl, rfl⟩⟩

end Sys2Proof.Machine
end

section
/-! PROOFS. The page planner: what PLAN does with a request, what a chain of segments covers, and the plan's size
(40_page_planner). -/

namespace Sys2Proof.Machine

/-! ## PLAN by its request -/

/-- PLAN is refused for an unwritten operand or a range overflow only (40_page_planner R140). -/
theorem execPlan_refused {cap : Nat} {s : State} {r : Refusal} (h : execPlan cap s = .refused r) :
    (planOperands s = none ∧ r = .unwrittenOperand) ∨
    ∃ p L S, planOperands s = some (p, L, S) ∧ rangeOverflow L S = true ∧ r = .rangeOverflow := by
  rcases execPlan_cases cap s with ⟨ho, he⟩ | ⟨p, L, S, ho, ⟨hr, he⟩ | ⟨-, -, he⟩ |
    ⟨-, -, w, -, he⟩ | ⟨-, -, w, -, he⟩⟩ <;> rw [he] at h <;> cases h
  · exact .inl ⟨ho, rfl⟩
  · exact .inr ⟨p, L, S, ho, hr, rfl⟩

/-- PLAN never faults (40_page_planner R140). -/
theorem execPlan_ne_fault (cap : Nat) (s : State) (f : Fault) : execPlan cap s ≠ .fault f := by
  intro h
  rcases execPlan_cases cap s with ⟨-, he⟩ | ⟨p, L, S, -, ⟨-, he⟩ | ⟨-, -, he⟩ | ⟨-, -, w, -, he⟩ |
    ⟨-, -, w, -, he⟩⟩ <;> rw [he] at h <;> cases h

theorem execPlan_unwritten {cap : Nat} {s : State} (ho : planOperands s = none) :
    execPlan cap s = .refused .unwrittenOperand := by
  simp [execPlan, ho]

section Request

variable {s t : State} {cap p L S : Nat} (ho : planOperands s = some (p, L, S))
include ho

theorem execPlan_overflow (hr : rangeOverflow L S = true) :
    execPlan cap s = .refused .rangeOverflow := by
  simp [execPlan, ho, hr]

theorem execPlan_zeroPage (hr : rangeOverflow L S = false) (hp : p = 0) :
    execPlan cap s = .next (raise .configError (openPlan cap s)) := by
  simp [execPlan, ho, hr, hp]

/-- PLAN of a request in range that the buffer holds ends with its whole plan. -/
theorem execPlan_fits (hr : rangeOverflow L S = false) (hp : 0 < p) (hc : pageCount p L S ≤ cap) :
    ∃ w, planRun p L S cap s.pln = .planned w ∧
      execPlan cap s = .next (((storePlan w (openPlan cap s)).setValid true).setResult .ok) := by
  obtain ⟨w, hw, -⟩ := (planRun_closed hp L S cap s.pln).1 hc
  exact ⟨w, hw, execPlan_planned ho hr hp hw⟩

/-- PLAN of a request in range that the buffer does not hold raises CapacityError. -/
theorem execPlan_tooLong (hr : rangeOverflow L S = false) (hp : 0 < p) (hc : cap < pageCount p L S) :
    ∃ w, planRun p L S cap s.pln = .overfull w ∧
      execPlan cap s = .next (raise .capacityError (storePlan w (openPlan cap s))) := by
  obtain ⟨w, hw, -⟩ := (planRun_closed hp L S cap s.pln).2 hc
  exact ⟨w, hw, execPlan_overfull ho hr hp hw⟩

/-- `execPlan_next` for a request that is known. -/
theorem execPlan_next_request (h : execPlan cap s = .next t) :
    rangeOverflow L S = false ∧
      ((p = 0 ∧ t = raise .configError (openPlan cap s)) ∨
       (0 < p ∧ ∃ w, planRun p L S cap s.pln = .planned w ∧
         t = ((storePlan w (openPlan cap s)).setValid true).setResult .ok) ∨
       (0 < p ∧ ∃ w, planRun p L S cap s.pln = .overfull w ∧
         t = raise .capacityError (storePlan w (openPlan cap s)))) := by
  obtain ⟨p', L', S', ho', hr, hend⟩ := execPlan_next h
  rw [ho] at ho'
  cases ho'
  exact ⟨hr, hend⟩

/-- A PLAN that ends `ok` planned a request in range with a page size above 0. -/
theorem execPlan_ok (h : execPlan cap s = .next t) (hok : t.result = .ok) :
    0 < p ∧ (L = 0 ∨ S + L - 1 ≤ 65535) ∧ ∃ w, planRun p L S cap s.pln = .planned w ∧
      t = ((storePlan w (openPlan cap s)).setValid true).setResult .ok := by
  obtain ⟨hr, ⟨-, rfl⟩ | ⟨hp, hw⟩ | ⟨-, w, -, rfl⟩⟩ := execPlan_next_request ho h
  · simp at hok
  · exact ⟨hp, (rangeOverflow_false_iff L S).1 hr, hw⟩
  · simp at hok

/-- A PLAN that raises CapacityError filled its buffer. -/
theorem execPlan_capacityError (h : execPlan cap s = .next t)
    (herr : t.result = .error .capacityError) :
    0 < p ∧ ∃ w, planRun p L S cap s.pln = .overfull w ∧
      t = raise .capacityError (storePlan w (openPlan cap s)) := by
  obtain ⟨-, ⟨-, rfl⟩ | ⟨-, w, -, rfl⟩ | hover⟩ := execPlan_next_request ho h
  · simp at herr
  · simp at herr
  · exact hover

/-- What a PLAN that ends `ok` leaves in the buffer: the closed form, a chain from the start offset
(40_page_planner R126, R134). -/
theorem execPlan_ok_seg (h : execPlan cap s = .next t) (hok : t.result = .ok) :
    t.plb.seg = closedPlan p L S ∧ chainFrom S 0 t.plb.seg := by
  obtain ⟨hp, hrange, w, hw, rfl⟩ := execPlan_ok ho h hok
  obtain ⟨-, hL, hS⟩ := planOperands_bounds ho
  have hsegs : w.segs = closedPlan p L S := (planRun_planned hp hw).2
  exact ⟨hsegs, (hsegs ▸ closedPlan_chain hp hL hS hrange : chainFrom S 0 w.segs)⟩

end Request

/-- The working values at the end of a whole plan (40_page_planner R130, R137). -/
theorem planRun_planned_values {p L S cap : Nat} {old : Pln} {w : PlanWork} (hp : 0 < p)
    (h : planRun p L S cap old = .planned w) :
    w.currentAddress = S + L ∧ w.remaining = 0 ∧ w.sourceOffset = L ∧
      (L ≠ 0 → w.nextPageBoundary = ((S + L - 1) / p + 1) * p) := by
  obtain ⟨w', hw, -, hvalues⟩ := (planRun_closed hp L S cap old).1 (planRun_planned hp h).1
  rw [hw] at h
  cases h
  exact hvalues

/-- The working registers hold the working values, cut to their widths (10_state R29). -/
@[simp] theorem storePlan_pln (w : PlanWork) (s : State) : (storePlan w s).pln =
    { currentAddress := BitVec.ofNat 17 w.currentAddress
      remaining := BitVec.ofNat 16 w.remaining
      sourceOffset := BitVec.ofNat 16 w.sourceOffset
      nextPageBoundary := BitVec.ofNat 17 w.nextPageBoundary
      availableOnPage := BitVec.ofNat 16 w.availableOnPage
      segmentLength := BitVec.ofNat 16 w.segmentLength } := rfl

/-! ## Where a segment lies (40_page_planner R125) -/

/-- A segment of the plan is not empty and lies between the bounds of one page. -/
theorem closedPlan_mem_page {p L S : Nat} (hp : 0 < p) (hL : L < 65536) (hS : S < 65536)
    (hr : L = 0 ∨ S + L - 1 ≤ 65535) {g : PageSegment} (hg : g ∈ closedPlan p L S) :
    ∃ q, q * p ≤ g.address.toNat ∧ 1 ≤ g.length.toNat ∧
      g.address.toNat + g.length.toNat ≤ (q + 1) * p := by
  simp only [closedPlan, List.mem_map, List.mem_range] at hg
  obtain ⟨k, hk, rfl⟩ := hg
  obtain ⟨haddr, -, hlen⟩ := closedSegment_numbers hp hk hS hr
  obtain ⟨-, -, -, -, hne, -⟩ := slice_bounds hp hk
  have hlen := hlen hL
  exact ⟨S / p + k, by omega, by omega, by omega⟩

/-! ## Chains of segments (40_page_planner R126 to R128) -/

/-- How many bytes the segments hold together. -/
def lengthSum (segs : List PageSegment) : Nat := (segs.map fun g => g.length.toNat).sum

@[simp] theorem lengthSum_nil : lengthSum [] = 0 := rfl

@[simp] theorem lengthSum_cons (g : PageSegment) (gs : List PageSegment) :
    lengthSum (g :: gs) = g.length.toNat + lengthSum gs := by simp [lengthSum]

theorem chainFrom_head {a o : Nat} {segs : List PageSegment} {g : PageSegment}
    (h : chainFrom a o segs) (hg : segs[0]? = some g) :
    g.address.toNat = a ∧ g.sourceOffset.toNat = o := by
  cases segs with
  | nil => cases hg
  | cons g' gs =>
    obtain ⟨haddr, hoff, -⟩ := h
    cases hg
    exact ⟨haddr, hoff⟩

/-- In a chain each segment starts, on the device and in the payload, where the one before ends. -/
theorem chainFrom_adjacent {segs : List PageSegment} {g g' : PageSegment} :
    ∀ {a o k : Nat}, chainFrom a o segs → segs[k]? = some g → segs[k + 1]? = some g' →
      g'.address.toNat = g.address.toNat + g.length.toNat ∧
      g'.sourceOffset.toNat = g.sourceOffset.toNat + g.length.toNat := by
  induction segs with
  | nil => intro a o k _ hg; cases hg
  | cons x xs ih =>
    rintro a o k ⟨haddr, hoff, -, -, hrest⟩ hg hg'
    cases k with
    | zero =>
      cases hg
      obtain ⟨haddr', hoff'⟩ := chainFrom_head hrest hg'
      exact ⟨by rw [haddr', haddr], by rw [hoff', hoff]⟩
    | succ k => exact ih hrest hg hg'

/-- The segments of a chain lie between its start and its end, and each is as far into the payload as it is into
the range. -/
theorem chainFrom_mem {segs : List PageSegment} {g : PageSegment} :
    ∀ {a o : Nat}, chainFrom a o segs → g ∈ segs →
      a ≤ g.address.toNat ∧ g.address.toNat + g.length.toNat ≤ a + lengthSum segs ∧
      g.sourceOffset.toNat + a = o + g.address.toNat := by
  induction segs with
  | nil => intro a o _ hg; cases hg
  | cons x xs ih =>
    rintro a o ⟨haddr, hoff, -, -, hrest⟩ hg
    rw [lengthSum_cons]
    rcases List.mem_cons.1 hg with rfl | hg
    · omega
    · obtain ⟨hlo, hhi, hsrc⟩ := ih hrest hg
      omega

/-- The segment holds the device address. -/
def PageSegment.holds (g : PageSegment) (x : Nat) : Prop :=
  g.address.toNat ≤ x ∧ x < g.address.toNat + g.length.toNat

/-- Each address of a chain lies in exactly one of its segments (40_page_planner R127). -/
theorem chainFrom_covers {segs : List PageSegment} {x : Nat} :
    ∀ {a o : Nat}, chainFrom a o segs → a ≤ x → x < a + lengthSum segs →
      ∃! k : Nat, ∃ g : PageSegment, segs[k]? = some g ∧ g.holds x := by
  induction segs with
  | nil => intro a o _ hlo hhi; simp at hhi; omega
  | cons y ys ih =>
    rintro a o ⟨haddr, -, -, -, hrest⟩ hlo hhi
    rw [lengthSum_cons] at hhi
    by_cases hfirst : x < a + y.length.toNat
    · refine ⟨0, ⟨y, rfl, by omega, by omega⟩, ?_⟩
      rintro (_ | k) ⟨g, hg, hstart, -⟩
      · rfl
      · obtain ⟨hafter, -⟩ := chainFrom_mem hrest (List.mem_of_getElem? hg)
        omega
    · obtain ⟨k, hk, honly⟩ := ih hrest (by omega) (by omega)
      refine ⟨k + 1, hk, ?_⟩
      rintro (_ | j) ⟨g, hg, hheld⟩
      · cases hg
        obtain ⟨-, hend⟩ := hheld
        omega
      · rw [honly j ⟨g, hg, hheld⟩]

/-- The payload slices of a chain put together are the payload's run from the chain's first index
(40_page_planner R128). -/
theorem chainFrom_segmentData {pay : Payload} {n : Nat} {bytes : List Byte}
    (hpay : pay.memRead 0 n = some bytes) {segs : List PageSegment} :
    ∀ {a o : Nat}, chainFrom a o segs → o + lengthSum segs ≤ n →
      (∀ g ∈ segs, pay.segmentData g ≠ none) ∧
      (segs.map fun g => (pay.segmentData g).getD []).flatten =
        (bytes.drop o).take (lengthSum segs) := by
  induction segs with
  | nil => intro a o _ _; simp
  | cons g gs ih =>
    rintro a o ⟨-, hoff, -, -, hrest⟩ hn
    rw [lengthSum_cons] at hn
    have hdata : pay.segmentData g = some ((bytes.drop o).take g.length.toNat) := by
      rw [Payload.segmentData, hoff]
      exact Payload.memRead_slice hpay (by omega)
    obtain ⟨hall, hflat⟩ := ih hrest (by omega)
    refine ⟨List.forall_mem_cons.2 ⟨by simp [hdata], hall⟩, ?_⟩
    rw [List.map_cons, List.flatten_cons, hflat, hdata, Option.getD_some, lengthSum_cons,
      List.take_add, List.drop_drop]

/-- A chain ends where its last segment ends. -/
theorem chainFrom_concat_end {segs : List PageSegment} {g : PageSegment} :
    ∀ {a o : Nat}, chainFrom a o (segs ++ [g]) →
      a + lengthSum (segs ++ [g]) = g.address.toNat + g.length.toNat := by
  induction segs with
  | nil =>
    rintro a o ⟨haddr, -⟩
    simp [haddr]
  | cons x xs ih =>
    rintro a o ⟨-, -, -, -, hrest⟩
    rw [List.cons_append, lengthSum_cons, ← ih hrest]
    omega

/-! ## The size of a plan -/

theorem pageCount_zero (p S : Nat) : pageCount p 0 S = 0 := rfl

theorem pageCount_of_pos {p L S : Nat} (hL : 0 < L) :
    pageCount p L S = (S + L - 1) / p - S / p + 1 :=
  if_neg hL.ne'

/-- The segments of a plan hold as many bytes as the request (40_page_planner R127). -/
theorem lengthSum_closedPlan {p L S : Nat} (hp : 0 < p) (hL : L < 65536) (hS : S < 65536)
    (hr : L = 0 ∨ S + L - 1 ≤ 65535) : lengthSum (closedPlan p L S) = L := by
  rcases Nat.eq_zero_or_pos L with rfl | hpos
  · rfl
  obtain ⟨m, hm⟩ : ∃ m, pageCount p L S = m + 1 := ⟨_, pageCount_of_pos hpos⟩
  have hlt : m < pageCount p L S := by omega
  have hlast : closedPlan p L S =
      (List.range m).map (fun k => closedSegment p L S (k + 1)) ++ [closedSegment p L S (m + 1)] := by
    simp [closedPlan, hm, List.range_succ]
  have hend := hlast ▸ chainFrom_concat_end (hlast ▸ closedPlan_chain hp hL hS hr)
  obtain ⟨haddr, -, hlen⟩ := closedSegment_numbers hp hlt hS hr
  obtain ⟨-, -, -, hstop, hne, -⟩ := slice_bounds hp hlt
  have hlen := hlen hL
  have hstop := hstop hm.symm
  omega

/-- `execPlan_ok_seg` with the bytes the plan holds. -/
theorem execPlan_ok_lengthSum {s t : State} {cap p L S : Nat} (ho : planOperands s = some (p, L, S))
    (h : execPlan cap s = .next t) (hok : t.result = .ok) :
    lengthSum t.plb.seg = L ∧ chainFrom S 0 t.plb.seg := by
  obtain ⟨hp, hr, -⟩ := execPlan_ok ho h hok
  obtain ⟨-, hL, hS⟩ := planOperands_bounds ho
  obtain ⟨hseg, hchain⟩ := execPlan_ok_seg ho h hok
  exact ⟨hseg ▸ lengthSum_closedPlan hp hL hS hr, hchain⟩

/-- The pages a range touches are at most those its bytes fill, and one more (40_page_planner R132). -/
theorem pageCount_le_sized {p : Nat} (hp : 0 < p) (L S : Nat) :
    pageCount p L S ≤ (L + p - 1) / p + 1 := by
  rcases Nat.eq_zero_or_pos L with rfl | hL
  · simp [pageCount_zero]
  obtain ⟨-, hS, hmul⟩ := page_bounds hp S
  have hpages : (S + L - 1) / p ≤ (L + p - 1) / p + S / p := calc
    (S + L - 1) / p ≤ (L + p - 1 + S / p * p) / p := Nat.div_le_div_right (by omega)
    _ = (L + p - 1) / p + S / p := Nat.add_mul_div_right _ _ hp
  rw [pageCount_of_pos hL]
  exact Nat.succ_le_succ (Nat.sub_le_iff_le_add.2 hpages)

/-! ## Whole pages (40_page_planner R130) -/

/-- The page of the last byte of `m` pages from page `q` on. -/
theorem lastPage_wholePages {p m q : Nat} (hp : 0 < p) (hm : 0 < m) :
    (q * p + m * p - 1) / p = q + (m - 1) := by
  have hsum : (q + (m - 1) + 1) * p = q * p + m * p := by
    rw [show q + (m - 1) + 1 = q + m by omega, Nat.add_mul]
  have hstep : (q + (m - 1) + 1) * p = (q + (m - 1)) * p + p := Nat.succ_mul _ _
  exact div_eq_of_page (by omega) (by omega)

theorem pageCount_wholePages {p : Nat} (hp : 0 < p) (m q : Nat) :
    pageCount p (m * p) (q * p) = m := by
  rcases Nat.eq_zero_or_pos m with rfl | hm
  · simp [pageCount]
  rw [pageCount_of_pos (Nat.mul_pos hm hp), lastPage_wholePages hp hm, Nat.mul_div_cancel _ hp]
  omega

/-- A slice of a whole-page range is one whole page. -/
theorem pageSlice_wholePages {p m q k : Nat} (hk : k < m) :
    pageSlice p (q * p) (q * p + m * p) (q + k) =
      ⟨BitVec.ofNat 16 (q * p + k * p), BitVec.ofNat 16 p, BitVec.ofNat 16 (k * p)⟩ := by
  have hstart : (q + k) * p = q * p + k * p := Nat.add_mul q k p
  have hstop : (q + k + 1) * p = q * p + k * p + p := by rw [Nat.succ_mul, hstart]
  have hinside : k * p + p ≤ m * p := by
    rw [← Nat.succ_mul]
    exact Nat.mul_le_mul_right p hk
  unfold pageSlice
  rw [hstart, hstop]
  congr 2 <;> omega

/-- The plan of whole pages: one segment for each. -/
theorem closedPlan_wholePages {p : Nat} (hp : 0 < p) (m q : Nat) :
    closedPlan p (m * p) (q * p) = (List.range m).map fun k =>
      ⟨BitVec.ofNat 16 (q * p + k * p), BitVec.ofNat 16 p, BitVec.ofNat 16 (k * p)⟩ := by
  have hcount := pageCount_wholePages hp m q
  rw [closedPlan, hcount]
  refine List.map_congr_left fun k hk => ?_
  have hk : k < m := List.mem_range.1 hk
  rw [← pageSlice_eq_closedSegment hp (by rwa [hcount]), Nat.mul_div_cancel _ hp,
    pageSlice_wholePages hk]

/-! ## WRITE_OP and the range premise (40_page_planner R138) -/

/-- The only check of WRITE_OP that answers RangeOverflow is that of the range. -/
theorem writeOpRefusal_rangeOverflow {p L S : Nat} {s : State}
    (h : writeOpRefusal p L S s = some .rangeOverflow) : rangeOverflow L S = true := by
  unfold writeOpRefusal at h
  split_ifs at h with hsize hread hr hframes
  · cases h
  · cases h
  · exact hr
  · cases h

/-- The range is the premise named where the payload reads whole. -/
theorem writeOpRefusal_of_overflow {p L S : Nat} {s : State} (hlen : s.pay.size = L)
    (hbytes : ∀ a, a < L → Memory.read s.pay.cells a ≠ none) (hr : rangeOverflow L S = true) :
    writeOpRefusal p L S s = some .rangeOverflow := by
  obtain ⟨bytes, hread⟩ := memRead_whole hlen hbytes
  simp [writeOpRefusal, hlen, hread, hr]

/-- A refused WRITE_OP whose request is known names an unwritten operand or a broken premise. -/
theorem execWriteOp_refused {cap p L S : Nat} {s : State} {r : Refusal}
    (ho : planOperands s = some (p, L, S)) (h : execWriteOp cap s = .refused r) :
    r = .unwrittenOperand ∨ writeOpRefusal p L S s = some r := by
  simp only [execWriteOp, ho] at h
  split at h
  · cases h
    exact .inl rfl
  · cases hr : writeOpRefusal p L S s with
    | some r' =>
      simp only [hr] at h
      cases h
      exact .inr rfl
    | none =>
      simp only [hr] at h
      split at h
      · split at h <;> cases h
      · cases h

theorem execWriteOp_of_refusal {cap p L S : Nat} {s : State} {r : Refusal}
    (ho : planOperands s = some (p, L, S)) (hw : s.cfg.written s.written = true)
    (hy : s.written.payload = true) (hr : writeOpRefusal p L S s = some r) :
    execWriteOp cap s = .refused r := by
  simp [execWriteOp, ho, hw, hy, hr]

/-- A WRITE_OP whose range overflows cannot run: the range is one of its premises. -/
theorem execWriteOp_overflow {cap p L S : Nat} {s : State} (ho : planOperands s = some (p, L, S))
    (hr : rangeOverflow L S = true) : ∃ r, execWriteOp cap s = .refused r := by
  rcases execWriteOp_cases cap s with hrefused | ⟨p', L', S', ho', hw, hy, hnone, -⟩
  · exact hrefused
  rw [ho] at ho'
  cases ho'
  have hrange := ((writeOpRefusal_none_iff ho hw hy).1 hnone).range
  rw [(rangeOverflow_false_iff L S).2 hrange] at hr
  cases hr

/-! ## The obligations of the planner -/

/-- Settles O15: the buffer holds the plan, so the loop ends with all of it. -/
theorem planCompletesWithClosedForm : Obligations.PlanCompletesWithClosedForm := by
  intro s cap p L S ho hr hp hc
  obtain ⟨w, hw, hexec⟩ := execPlan_fits ho ((rangeOverflow_false_iff L S).2 hr) hp hc
  exact ⟨_, hexec, rfl, by simp [(planRun_planned hp hw).2]⟩

/-- Settles O16: a segment between the bounds of one page has its first and its last byte in it. -/
theorem planSegmentsStayInOnePage : Obligations.PlanSegmentsStayInOnePage := by
  intro s t cap p L S ho h hok g hg
  obtain ⟨hp, hr, -⟩ := execPlan_ok ho h hok
  obtain ⟨-, hL, hS⟩ := planOperands_bounds ho
  rw [(execPlan_ok_seg ho h hok).1] at hg
  obtain ⟨q, hlo, hlen, hhi⟩ := closedPlan_mem_page hp hL hS hr hg
  have hmul : (q + 1) * p = q * p + p := Nat.succ_mul q p
  have hfirst : g.address.toNat / p = q := div_eq_of_page hlo (by omega)
  have hlast : (g.address.toNat + g.length.toNat - 1) / p = q :=
    div_eq_of_page (by omega) (by omega)
  exact ⟨by rw [hfirst, hlast], hlen, by omega⟩

/-- Settles O17: the plan is a chain from the start offset, and no segment of it is empty. -/
theorem planSegmentsAreContiguous : Obligations.PlanSegmentsAreContiguous := by
  intro s t cap p L S ho h hok
  obtain ⟨-, hchain⟩ := execPlan_ok_seg ho h hok
  refine ⟨fun g hg => (chainFrom_head hchain hg).1, fun k g g' hg hg' => ?_⟩
  obtain ⟨hnext, -⟩ := chainFrom_adjacent hchain hg hg'
  have hlen := chainFrom_length_pos hchain g (List.mem_of_getElem? hg)
  omega

/-- Settles O18: the plan is a chain from the start offset with as many bytes as the request. -/
theorem planCoversRequestExactlyOnce : Obligations.PlanCoversRequestExactlyOnce := by
  intro s t cap p L S ho h hok
  obtain ⟨hsum, hchain⟩ := execPlan_ok_lengthSum ho h hok
  refine ⟨hsum, fun g hg => ?_, fun a hlo hhi => ?_⟩
  · obtain ⟨hstart, hend, -⟩ := chainFrom_mem hchain hg
    exact ⟨hstart, hsum ▸ hend⟩
  · exact chainFrom_covers hchain hlo (hsum.symm ▸ hhi)

/-- Settles O19: the chain starts at payload index 0 and holds the whole payload. -/
theorem planSourceOffsetsRebuildPayload : Obligations.PlanSourceOffsetsRebuildPayload := by
  intro s t cap p L S ho h hok
  obtain ⟨hsum, hchain⟩ := execPlan_ok_lengthSum ho h hok
  refine ⟨fun g hg => (chainFrom_head hchain hg).2,
    fun k g g' hg hg' => (chainFrom_adjacent hchain hg hg').2, fun g hg => ?_, fun bytes hread => ?_⟩
  · obtain ⟨-, -, hsrc⟩ := chainFrom_mem hchain hg
    omega
  · obtain ⟨hall, hflat⟩ := chainFrom_segmentData hread hchain (by omega)
    refine ⟨hall, hflat.trans ?_⟩
    rw [hsum, List.drop_zero, ← Payload.memRead_length hread, List.take_length]

/-- Settles O20: each way PLAN can end is decided by the operands and the capacity. -/
theorem planDependsOnItsOperandsOnly : Obligations.PlanDependsOnItsOperandsOnly := by
  intro s u cap hsame
  refine ⟨fun t h => ?_, fun r h => ?_⟩
  · obtain ⟨p, L, S, ho, hr, hend⟩ := execPlan_next h
    rw [hsame] at ho
    rcases hend with ⟨hp, rfl⟩ | ⟨hp, w, hw, rfl⟩ | ⟨hp, w, hw, rfl⟩
    · exact ⟨_, execPlan_zeroPage ho hr hp, rfl, rfl⟩
    · obtain ⟨hc, hsegs⟩ := planRun_planned hp hw
      obtain ⟨v, hv, hexec⟩ := execPlan_fits ho hr hp hc
      exact ⟨_, hexec, rfl, by simp [hsegs, (planRun_planned hp hv).2]⟩
    · obtain ⟨hc, hsegs⟩ := planRun_overfull hp hw
      obtain ⟨v, hv, hexec⟩ := execPlan_tooLong ho hr hp hc
      exact ⟨_, hexec, rfl, by simp [hsegs, (planRun_overfull hp hv).2]⟩
  · rcases execPlan_refused h with ⟨ho, rfl⟩ | ⟨p, L, S, ho, hr, rfl⟩
    · exact execPlan_unwritten (hsame ▸ ho)
    · exact execPlan_overflow (hsame ▸ ho) hr

/-- Settles O21: the start offset is `q` pages, and the plan has the pages `q .. q + m − 1`. -/
theorem planOfWholePages : Obligations.PlanOfWholePages := by
  intro s cap p m S ho hp haligned hrange hc
  obtain ⟨q, rfl⟩ : ∃ q, S = q * p :=
    ⟨S / p, (Nat.div_mul_cancel (Nat.dvd_of_mod_eq_zero haligned)).symm⟩
  have hr : rangeOverflow (m * p) (q * p) = false := by
    rw [rangeOverflow_false_iff]
    exact hrange.imp_left fun hm => by simp [hm]
  have hfits : pageCount p (m * p) (q * p) ≤ cap := by rwa [pageCount_wholePages hp]
  obtain ⟨w, hw, hexec⟩ := execPlan_fits ho hr hp hfits
  refine ⟨_, hexec, rfl, ?_, fun hm => ?_⟩
  · simp [(planRun_planned hp hw).2, closedPlan_wholePages hp]
  · obtain ⟨-, -, -, hboundary⟩ := planRun_planned_values hp hw
    have hlast : w.nextPageBoundary = q * p + m * p := by
      rw [hboundary (Nat.mul_pos hm hp).ne', lastPage_wholePages hp hm,
        show q + (m - 1) + 1 = q + m by omega, Nat.add_mul]
    simp only [State.setResult_pln, State.setValid_pln, storePlan_pln, BitVec.toNat_ofNat, hlast]
    omega

/-- Settles O22: planning overfills the buffer exactly when the plan is longer than `cap`. -/
theorem capacityErrorExactlyWhenPlanTooLong : Obligations.CapacityErrorExactlyWhenPlanTooLong := by
  intro s cap p L S ho hr hp
  refine ⟨⟨?_, fun hc => ?_⟩, fun t h herr => ?_⟩
  · rintro ⟨t, h, herr⟩
    obtain ⟨-, w, hw, -⟩ := execPlan_capacityError ho h herr
    exact (planRun_overfull hp hw).1
  · obtain ⟨w, -, hexec⟩ := execPlan_tooLong ho ((rangeOverflow_false_iff L S).2 hr) hp hc
    exact ⟨_, hexec, rfl⟩
  · obtain ⟨-, w, hw, rfl⟩ := execPlan_capacityError ho h herr
    exact ⟨by simp [(planRun_overfull hp hw).2], rfl⟩

/-- Settles O23: CapacityError needs more segments than the sizing rule allows. -/
theorem sizedBufferNeverOverflows : Obligations.SizedBufferNeverOverflows := by
  intro s t cap p L S ho hsized h herr
  obtain ⟨hp, w, hw, -⟩ := execPlan_capacityError ho h herr
  have hlong : cap < pageCount p L S := (planRun_overfull hp hw).1
  have hshort : pageCount p L S ≤ (L + p - 1) / p + 1 := pageCount_le_sized hp L S
  exact absurd (hshort.trans hsized) (Nat.not_le_of_lt hlong)

/-- Settles O24: a plan of no segment fits every buffer. -/
theorem zeroLengthPlanIsEmpty : Obligations.ZeroLengthPlanIsEmpty := by
  intro s cap p S ho hp
  obtain ⟨t, hexec, hok, hplb⟩ :=
    planCompletesWithClosedForm s cap p 0 S ho (.inl rfl) hp (Nat.zero_le cap)
  exact ⟨t, hexec, hok, by rw [hplb]; rfl, by rw [hplb]⟩

/-- Settles O25: the range is a check of PLAN and a premise of WRITE_OP. -/
theorem rangeOverflowIsRefused : Obligations.RangeOverflowIsRefused := by
  intro s cap p L S ho
  refine ⟨fun hL hover => ?_, fun hr => ?_⟩
  · have hr : rangeOverflow L S = true := (rangeOverflow_iff L S).2 ⟨hL, hover⟩
    exact ⟨execPlan_overflow ho hr, execWriteOp_overflow ho hr,
      fun hcfg hpay hlen hbytes => execWriteOp_of_refusal ho ((cfgWritten_iff _ _).2 hcfg) hpay
        (writeOpRefusal_of_overflow hlen hbytes hr)⟩
  · have hr : rangeOverflow L S ≠ true := by simp [(rangeOverflow_false_iff L S).2 hr]
    refine ⟨fun h => ?_, fun h => ?_⟩
    · rcases execPlan_refused h with ⟨-, hne⟩ | ⟨p', L', S', ho', hr', -⟩
      · cases hne
      · rw [ho] at ho'
        cases ho'
        exact hr hr'
    · rcases execWriteOp_refused ho h with hne | hne
      · cases hne
      · exact hr (writeOpRefusal_rangeOverflow hne)

/-- Settles O26: opening the buffer and raising the error are all that PLAN does. -/
theorem zeroPageSizePlanIsConfigError : Obligations.ZeroPageSizePlanIsConfigError :=
  fun _ _ L S ho hr => execPlan_zeroPage ho ((rangeOverflow_false_iff L S).2 hr) rfl

/-- Settles O27, by the ways PLAN can end. -/
theorem planChangesOnlyPlanState : Obligations.PlanChangesOnlyPlanState := by
  intro s cap
  refine ⟨fun t h => ?_, fun r h => ?_, execPlan_ne_fault cap s⟩
  · obtain ⟨p, L, S, -, -, ⟨-, rfl⟩ | ⟨-, w, -, rfl⟩ | ⟨-, w, -, rfl⟩⟩ := execPlan_next h
    · exact ⟨rfl, .inr (.inl rfl)⟩
    · exact ⟨rfl, .inl rfl⟩
    · exact ⟨rfl, .inr (.inr rfl)⟩
  · rcases execPlan_refused h with ⟨-, hne⟩ | ⟨p, L, S, -, -, hne⟩
    · exact .inr hne
    · exact .inl hne

/-- Settles O28: `S + L` is at most 65536, which 17 bits hold. -/
theorem planFinalWorkingRegisters : Obligations.PlanFinalWorkingRegisters := by
  intro s t cap p L S ho h hok
  obtain ⟨hp, hr, w, hw, rfl⟩ := execPlan_ok ho h hok
  obtain ⟨-, hL, hS⟩ := planOperands_bounds ho
  obtain ⟨haddr, hrem, hsrc, -⟩ := planRun_planned_values hp hw
  simp only [State.setResult_pln, State.setValid_pln, storePlan_pln, BitVec.toNat_ofNat, haddr, hrem,
    hsrc, true_and]
  exact ⟨Nat.mod_eq_of_lt (by omega), Nat.mod_eq_of_lt hL⟩

end Sys2Proof.Machine
end

section
/-! PROOFS. The sequencer's single steps: a round trip that is answered, a sleep that ends, and the instruction a
sequencer position stands for (41_write_sequencer R154 to R173). -/

namespace Sys2Proof.Machine

/-! ## Round trips that are answered (41_write_sequencer R164) -/

section Answered

variable {out : List Byte} {r : Response} {rest : List Response} {s : State}
  (hlen : out.length ≤ Config.frameMax) (ht : s.transport = r :: rest)
include hlen ht

theorem transferWith_answered (rc : RoundTrip → List Byte → List Byte → Bool) (rt : RoundTrip)
    (nx : Phase) : transferWith rc out rt nx s =
      .next (afterAnswer rc out rt nx r ((s.setFrm out).setTransport rest)) := by
  simp [transferWith, ht, Nat.not_lt_of_le hlen]

theorem transfer_answered (rt : RoundTrip) (nx : Phase) : transfer out rt nx s =
    .next (afterAnswer Config.respCheck out rt nx r ((s.setFrm out).setTransport rest)) :=
  transferWith_answered hlen ht _ rt nx

end Answered

/-- Settles O41: the write-enable step is the round trip of its frame. -/
theorem writeEnableStepCompletes : Obligations.WriteEnableStepCompletes :=
  fun _ _ _ _ hlen ht => transfer_answered hlen ht .wren .write

/-- Settles O42: each of the three steps is the round trip of its frame. -/
theorem writeStepsComplete : Obligations.WriteStepsComplete := by
  intro s opcode data inBytes rest ht
  simp only [← highByte_eq_extractLsb', ← lowByte_eq_extractLsb']
  refine ⟨fun lo hlen => ?_, fun a hlen => ?_, fun a hlen => ?_⟩
  · exact transfer_answered (by rwa [frameA1_length]) ht .write .delay
  · exact transfer_answered (by rwa [frameA2b_length]) ht .write .delay
  · exact transfer_answered (by rwa [frameA2l_length]) ht .write .delay

/-- Settles O44: what raising the error of the answer writes. -/
theorem failedTransferRaisesItsError : Obligations.FailedTransferRaisesItsError := by
  intro s i rt out rest hsends hlen
  rw [exec_sends hsends]
  refine ⟨fun _ ht => ?_, fun _ ht => ?_⟩
  · rw [transfer_answered hlen ht, afterAnswer_failure]
    rfl
  · rw [transfer_answered hlen ht, afterAnswer_fault]
    rfl

theorem afterAnswer_rejected {rc : RoundTrip → List Byte → List Byte → Bool} {out inBytes : List Byte}
    {rt : RoundTrip} (h : rc rt out inBytes = false) (nx : Phase) (s : State) :
    afterAnswer rc out rt nx (.success inBytes) s =
      raise (.protocolError (ordinal s.seq.index) rt) (s.emit (.transfer out .success)) := by
  simp [afterAnswer, checkResponse, h, Response.status]

/-- Settles O45: a rejected response raises what a failed transfer raises. -/
theorem rejectedResponseRaisesProtocolError : Obligations.RejectedResponseRaisesProtocolError := by
  intro rc s rt nx out inBytes rest hlen ht hrejected
  rw [transferWith_answered hlen ht, afterAnswer_rejected hrejected]
  rfl

/-- What an answer gives depends on whether it is a success, and not on the bytes it carries (41_write_sequencer
R165). -/
theorem transfer_ignores_bytes {out : List Byte} {r r' : Response} (rt : RoundTrip) (nx : Phase)
    (s : State) (rest : List Response)
    (h : ∀ u, afterAnswer Config.respCheck out rt nx r u = afterAnswer Config.respCheck out rt nx r' u) :
    transfer out rt nx (s.setTransport (r :: rest)) = transfer out rt nx (s.setTransport (r' :: rest)) := by
  rcases Nat.lt_or_ge Config.frameMax out.length with hlong | hlen
  · rw [transfer_longFrame hlong, transfer_longFrame hlong]
  · rw [transfer_answered hlen rfl, transfer_answered hlen rfl, h]
    rfl

/-- Settles O46: this hardware's check of a response reads none of its bytes. -/
theorem responseBytesAreIgnored : Obligations.ResponseBytesAreIgnored := by
  intro s i a b rest hsends
  obtain ⟨⟨rt, out⟩, hsends⟩ := Option.ne_none_iff_exists'.1 hsends
  simp only [exec_sends hsends]
  exact ⟨transfer_ignores_bytes rt _ s rest fun _ => rfl, transfer_ignores_bytes rt _ s rest fun _ => rfl⟩

/-! ## Sleeps that end (41_write_sequencer R170, R173) -/

theorem sleep_ended {s : State} {n : Nat} (ms : Millis) (h : s.wakes = n + 1) :
    sleep ms s = .next (advance (((s.setTmr ms).setWakes n).emit (.sleep ms))) := by
  simp [sleep, h]

theorem advance_of_lt {s : State} (h : s.seq.index.toNat + 1 < s.plb.count) :
    advance s = s.setSeq ⟨s.seq.index + 1, .wren⟩ :=
  if_pos h

theorem advance_of_last {s : State} (h : s.seq.index.toNat + 1 = s.plb.count) :
    advance s = (s.setSeq ⟨BitVec.ofNat 16 s.plb.count, .idle⟩).setResult .ok := by
  have hindex : s.seq.index + 1 = BitVec.ofNat 16 s.plb.count := by
    rw [← h, BitVec.ofNat_add, BitVec.ofNat_toNat, BitVec.setWidth_eq]
    rfl
  rw [← hindex]
  exact if_neg (Nat.not_lt.2 h.ge)

/-- Settles O43: the sleep ends, and the advance is to the next slot or past the last. -/
theorem delayStepCompletes : Obligations.DelayStepCompletes := by
  intro s ms n hwakes _ _
  refine ⟨fun hnext => ?_, fun hlast => ?_⟩
  · exact (sleep_ended ms hwakes).trans (congrArg _ (advance_of_lt hnext))
  · exact (sleep_ended ms hwakes).trans (congrArg _ (advance_of_last hlast))

/-! ## The instruction at a sequencer position (41_write_sequencer R152) -/

/-- A segment has a frame exactly where its format is configured and its payload reads. -/
theorem segmentFrame_eq_some {s : State} {g : PageSegment} {frame : List Byte} :
    segmentFrame s g = some frame ↔ ∃ format data, s.cfg.writeFormat = some format ∧
      s.pay.segmentData g = some data ∧ frame = [s.cfg.writeOpcode] ++ encAddr format g.address ++ data := by
  unfold segmentFrame
  cases s.cfg.writeFormat <;> cases s.pay.segmentData g <;> simp [eq_comm]

/-- The WRITE step is the round trip of its segment's frame. -/
theorem step_write_frame {s : State} {g : PageSegment} {frame : List Byte} (hp : s.seq.phase = .write)
    (hg : s.plb.seg[s.seq.index.toNat]? = some g) (hframe : segmentFrame s g = some frame) :
    step s = transfer frame .write .delay s := by
  obtain ⟨format, data, hf, hd, rfl⟩ := segmentFrame_eq_some.1 hframe
  exact step_write hp hg hf hd

/-- Whatever an addressed-write frame decodes to makes the round trip of that frame. -/
theorem exec_of_decode_fWrite {format : AddressFormat} {frame : List Byte} {i : Instr}
    (h : decode (.frame (.fWrite format) frame) = .ok i) (s : State) :
    exec i s = transfer frame .write .delay s := by
  obtain ⟨-, hread⟩ := decode_fWrite_eq_ok.1 h
  obtain ⟨opcode, address, data, -, rfl, rfl⟩ := decodeWrite_ok hread
  exact exec_writeInstr format opcode address data s

/-- Settles O9, by the phase. -/
theorem sequencerStepRunsDecodedFrame : Obligations.SequencerStepRunsDecodedFrame := by
  intro s i
  refine ⟨fun hp hd => ?_, fun g format frame hp hg _ hframe hd => ?_, fun hp hd => ?_⟩
  · obtain ⟨-, rfl⟩ := decode_fWren_eq_ok.1 hd
    exact step_wren hp
  · rw [step_write_frame hp hg hframe, exec_of_decode_fWrite hd]
  · cases hd
    exact step_delay hp

end Sys2Proof.Machine
end

section
/-! PROOFS. The host operations EXECUTE and WRITE_OP: which premise a refusal names, what their own step answers, and
what it leaves unchanged (41_write_sequencer R151 to R153, R181 to R183). -/

namespace Sys2Proof.Machine

/-! ## EXECUTE by its premises (41_write_sequencer R151) -/

theorem configOK_eq_false {c : Cfg} : c.configOK = false ↔ ¬ GoodConfig c := by
  rw [← configOK_iff, Bool.not_eq_true]

theorem execExecute_refused_iff {s : State} {r : Refusal} :
    execExecute s = .refused r ↔ executeRefusal s = some r := by
  rcases execExecute_cases s with ⟨r', hr, he⟩ | ⟨hr, -, he⟩ | ⟨hr, -, he⟩ <;> simp [hr, he]

theorem execExecute_of_badConfig {s : State} (h : ExecutePremises s) (hg : ¬ GoodConfig s.cfg) :
    execExecute s = .next (raise .configError s) := by
  simp [execExecute, (executeRefusal_none_iff s).2 h, configOK_eq_false.2 hg]

/-- The premise that the refusal `r` of EXECUTE names is broken (41_write_sequencer R151). -/
def ExecuteReasonBroken (s : State) (r : Refusal) : Prop :=
  (r = .unwrittenOperand ∧ ¬ (CfgHoldsValues s.written s.cfg ∧ s.written.payload = true ∧
    ∀ g ∈ s.plb.seg, ∀ a, g.sourceOffset.toNat ≤ a →
      a < g.sourceOffset.toNat + g.length.toNat → Memory.read s.pay.cells a ≠ none)) ∨
  (r = .noPlan ∧ s.plb.valid = false) ∨
  (r = .payloadBounds ∧ ∃ g ∈ s.plb.seg, s.pay.size < g.sourceOffset.toNat + g.length.toNat) ∨
  (r = .frameTooLong ∧ GoodConfig s.cfg ∧ ¬ FramesFit s.cfg s.plb.seg)

/-- A refused EXECUTE names a broken premise. -/
theorem executeRefusal_reason {s : State} {r : Refusal} (h : executeRefusal s = some r) :
    ExecuteReasonBroken s r := by
  unfold executeRefusal at h
  split_ifs at h with hwritten hvalid hcovers hdata hframes <;> cases h
  · refine .inl ⟨rfl, fun ⟨hcfg, hpay, _⟩ => ?_⟩
    simp [(cfgWritten_iff _ _).2 hcfg, hpay] at hwritten
  · exact .inr (.inl ⟨rfl, by simpa using hvalid⟩)
  · have hcovers : ¬ ∀ g ∈ s.plb.seg, g.sourceOffset.toNat + g.length.toNat ≤ s.pay.size := by
      rw [← all_covers_iff]
      simpa using hcovers
    exact .inr (.inr (.inl ⟨rfl, by simpa using hcovers⟩))
  · have hbounds : ∀ g ∈ s.plb.seg, g.sourceOffset.toNat + g.length.toNat ≤ s.pay.size := by
      rw [← all_covers_iff]
      simpa using hcovers
    refine .inl ⟨rfl, fun ⟨_, _, hbytes⟩ => ?_⟩
    have hreads : ∀ g ∈ s.plb.seg, (s.pay.segmentData g).isSome = true := fun g hg =>
      Option.isSome_iff_exists.2 (segmentData_isSome (hbounds g hg) (hbytes g hg))
    simp [List.all_eq_true.2 hreads] at hdata
  · rw [Bool.and_eq_true, configOK_iff, Bool.not_eq_true', ← Bool.not_eq_true, framesFit_iff] at hframes
    exact .inr (.inr (.inr ⟨rfl, hframes⟩))

/-- Settles O31: the computed refusal is none exactly under the premises, and each of its reasons is a broken one. -/
theorem executeRefusedExactlyOnBrokenPremise : Obligations.ExecuteRefusedExactlyOnBrokenPremise := by
  refine fun s => ⟨?_, fun r h => executeRefusal_reason (execExecute_refused_iff.1 h)⟩
  rw [← executeRefusal_none_iff, ← ne_eq, Option.ne_none_iff_exists']
  exact exists_congr fun _ => execExecute_refused_iff

/-- Settles O32: a plan with segments starts its sequence. -/
theorem executeStartsAtFirstWriteEnable : Obligations.ExecuteStartsAtFirstWriteEnable := by
  intro s hprem hg hseg
  exact (execExecute_of_premises hprem hg).trans (congrArg _ (beginSequence_of_ne_nil hseg))

/-- Settles O33: the sequence of no segment is over when it begins. -/
theorem executeOfEmptyPlan : Obligations.ExecuteOfEmptyPlan := by
  intro s hprem hseg
  refine ⟨fun hg => ?_, fun hg => execExecute_of_badConfig hprem hg⟩
  exact (execExecute_of_premises hprem hg).trans (congrArg _ (beginSequence_of_nil hseg))

/-! ## The plan is consumed (41_write_sequencer R183) -/

theorem beginSequence_valid (s : State) : (beginSequence s).plb.valid = false := by
  obtain ⟨-, -, -, -, -, -, -, hvalid, -⟩ := beginSequence_frame s
  exact hvalid

theorem execExecute_valid {s t : State} (h : execExecute s = .next t) : t.plb.valid = false := by
  obtain ⟨-, ⟨-, rfl⟩ | ⟨-, rfl⟩⟩ := execExecute_next h
  · exact beginSequence_valid s
  · rfl

/-- Without a valid plan EXECUTE is refused with NoPlan, once its operands are written (log 12). -/
theorem execExecute_noPlan {s : State} (hcfg : CfgHoldsValues s.written s.cfg)
    (hpay : s.written.payload = true) (hvalid : s.plb.valid = false) :
    execExecute s = .refused .noPlan := by
  rw [execExecute_refused_iff]
  simp [executeRefusal, (cfgWritten_iff _ _).2 hcfg, hpay, hvalid]

/-- A round trip leaves the plan valid or not as it was, or makes it not valid. -/
theorem transfer_valid {out : List Byte} {rt : RoundTrip} {nx : Phase} {s t : State}
    (h : transfer out rt nx s = .next t) : t.plb.valid = s.plb.valid ∨ t.plb.valid = false := by
  obtain ⟨-, ⟨-, rfl⟩ | ⟨r, rest, -, rfl⟩⟩ := transfer_next h
  · exact .inl rfl
  · rcases afterAnswer_cases Config.respCheck out rt nx r ((s.setFrm out).setTransport rest) with
      ha | ha | ⟨d, -, ha⟩ <;> rw [ha]
    · exact .inl rfl
    · exact .inr rfl
    · exact .inr rfl

/-- No step of a running sequence makes a consumed plan valid. -/
theorem step_valid {s t : State} (hrun : s.seq.phase ≠ .idle) (hvalid : s.plb.valid = false)
    (h : step s = .next t) : t.plb.valid = false := by
  rcases step_next_cases h with ⟨hp, -⟩ | ⟨hp, -⟩ | ⟨hp, -⟩ | ⟨hp, -⟩ | ⟨-, ht⟩ |
    ⟨-, g, format, data, -, -, -, ht⟩ | ⟨-, -, rfl⟩ | ⟨-, hs⟩
  · exact absurd hp hrun
  · exact absurd hp hrun
  · exact absurd hp hrun
  · exact absurd hp hrun
  · exact (transfer_valid ht).elim (·.trans hvalid) id
  · exact (transfer_valid ht).elim (·.trans hvalid) id
  · rfl
  · rw [(sleep_frame hs).2, hvalid]

/-- Settles O35: EXECUTE, its sequence, and an EXECUTE without a plan. -/
theorem executeConsumesThePlan : Obligations.ExecuteConsumesThePlan := by
  refine ⟨fun s t h => ?_, fun s t hrun hvalid h => step_valid hrun hvalid h,
    fun s hcfg hpay hvalid => execExecute_noPlan hcfg hpay hvalid⟩
  have hprem := (execExecute_next h).1
  obtain ⟨hcfg, -, -, hwritten, -⟩ := execExecute_sameOperands h
  have hvalid := execExecute_valid h
  exact ⟨hvalid, execExecute_noPlan (by rw [hcfg, hwritten]; exact hprem.cfgWritten)
    (by rw [hwritten]; exact hprem.payWritten) hvalid⟩

/-! ## WRITE_OP by its premises (41_write_sequencer R181, R182) -/

section Premises

variable {s : State} {p L S : Nat} (h : WriteOpPremises s p L S) {cap : Nat}
include h

theorem execWriteOp_of_badConfig (hg : ¬ GoodConfig s.cfg) :
    execWriteOp cap s = .next (raise .configError s) :=
  (execWriteOp_of_premises h cap).1 (configOK_eq_false.2 hg)

/-- WRITE_OP of a plan that the buffer holds starts the sequence of the whole plan. -/
theorem execWriteOp_fits (hg : GoodConfig s.cfg) (hc : pageCount p L S ≤ cap) :
    ∃ w, w.segs = closedPlan p L S ∧
      execWriteOp cap s = .next (beginSequence (storePlan w (openPlan cap s))) := by
  obtain ⟨w, hw, hsegs, -⟩ := (planRun_closed (page_pos h.operands hg) L S cap s.pln).1 hc
  exact ⟨w, hsegs, (execWriteOp_of_premises h cap).2.1 ((configOK_iff _).2 hg) w hw⟩

/-- WRITE_OP of a plan that the buffer does not hold raises CapacityError. -/
theorem execWriteOp_tooLong (hg : GoodConfig s.cfg) (hc : cap < pageCount p L S) :
    ∃ w, execWriteOp cap s = .next (raise .capacityError (storePlan w (openPlan cap s))) := by
  obtain ⟨w, hw, -⟩ := (planRun_closed (page_pos h.operands hg) L S cap s.pln).2 hc
  exact ⟨w, (execWriteOp_of_premises h cap).2.2 ((configOK_iff _).2 hg) w hw⟩

/-- WRITE_OP is not refused where its premises hold. -/
theorem execWriteOp_ne_refused (r : Refusal) : execWriteOp cap s ≠ .refused r := by
  by_cases hg : GoodConfig s.cfg
  · rcases Nat.lt_or_ge cap (pageCount p L S) with hc | hc
    · obtain ⟨w, he⟩ := execWriteOp_tooLong h hg hc
      simp [he]
    · obtain ⟨w, -, he⟩ := execWriteOp_fits h hg hc
      simp [he]
  · simp [execWriteOp_of_badConfig h hg]

end Premises

/-- WRITE_OP is refused where its request breaks a premise. -/
theorem execWriteOp_refused_of_not_premises {cap p L S : Nat} {s : State}
    (ho : planOperands s = some (p, L, S)) (h : ¬ WriteOpPremises s p L S) :
    ∃ r, execWriteOp cap s = .refused r := by
  rcases execWriteOp_cases cap s with hrefused | ⟨p', L', S', ho', hw, hy, hnone, -⟩
  · exact hrefused
  · rw [ho] at ho'
    cases ho'
    exact absurd ((writeOpRefusal_none_iff ho hw hy).1 hnone) h

/-- The payload's length is the first premise tested once the operands are written (log 12). -/
theorem writeOpRefusal_payloadBounds {p L S : Nat} {s : State} (h : s.pay.size ≠ L) :
    writeOpRefusal p L S s = some .payloadBounds :=
  if_pos h

/-- The frames are the premise named where the payload reads whole and the range is inside the address space. -/
theorem writeOpRefusal_frameTooLong {p L S : Nat} {s : State} (ho : planOperands s = some (p, L, S))
    (hlen : s.pay.size = L) (hbytes : ∀ a, a < L → Memory.read s.pay.cells a ≠ none)
    (hr : L = 0 ∨ S + L - 1 ≤ 65535) (hg : GoodConfig s.cfg)
    (hlong : ¬ FramesFit s.cfg (closedPlan p L S)) :
    writeOpRefusal p L S s = some .frameTooLong := by
  obtain ⟨bytes, hread⟩ := memRead_whole hlen hbytes
  have hfit : s.cfg.framesFit (planSegments p L S) = false := by
    rw [← Bool.not_eq_true, framesFit_iff, planSegments_closed (page_pos ho hg)]
    exact hlong
  simp [writeOpRefusal, hlen, hread, (rangeOverflow_false_iff L S).2 hr, (configOK_iff _).2 hg, hfit]

/-- Settles O39: under the premises WRITE_OP runs, and each check names its own reason. -/
theorem writeOpRefusedOnBrokenPremise : Obligations.WriteOpRefusedOnBrokenPremise := by
  intro s cap p L S ho
  refine ⟨⟨fun ⟨r, hr⟩ hprem => execWriteOp_ne_refused hprem r hr,
    execWriteOp_refused_of_not_premises ho⟩, fun hcfg hpay hlen => ?_,
    fun hcfg hpay hlen hbytes hr hg hlong => ?_⟩
  · exact execWriteOp_of_refusal ho ((cfgWritten_iff _ _).2 hcfg) hpay (writeOpRefusal_payloadBounds hlen)
  · exact execWriteOp_of_refusal ho ((cfgWritten_iff _ _).2 hcfg) hpay
      (writeOpRefusal_frameTooLong ho hlen hbytes hr hg hlong)

/-- The plan of a request has no segment exactly when its length is 0 (40_page_planner R121, R133). -/
theorem closedPlan_eq_nil_iff {p L S : Nat} : closedPlan p L S = [] ↔ L = 0 := by
  rw [← List.length_eq_zero_iff, closedPlan_length, pageCount]
  split <;> simp [*]

/-- Settles O36: WRITE_OP starts the sequence of the closed form, which is over at once for length 0. -/
theorem writeOpPlansAndStarts : Obligations.WriteOpPlansAndStarts := by
  intro s cap p L S hprem hg hc
  obtain ⟨w, hsegs, hexec⟩ := execWriteOp_fits hprem hg hc
  refine ⟨_, hexec, ?_⟩
  by_cases hL : L = 0
  · rw [beginSequence_of_nil (hsegs.trans (closedPlan_eq_nil_iff.2 hL)), if_pos hL, if_pos hL, ← hsegs]
    rfl
  · have hne : w.segs ≠ [] := by rwa [hsegs, ne_eq, closedPlan_eq_nil_iff]
    rw [beginSequence_of_ne_nil (s := storePlan w (openPlan cap s)) hne, if_neg hL, if_neg hL, ← hsegs]
    rfl

/-! ## What the own step of a host operation leaves (41_write_sequencer R152, R181) -/

theorem beginSequence_eq (s : State) : beginSequence s = { s with
    plb := { s.plb with valid := false }
    seq := (beginSequence s).seq
    result := (beginSequence s).result } := by
  rcases beginSequence_cases s with ⟨-, h⟩ | ⟨-, h⟩ <;> rw [h] <;> rfl

theorem execExecute_eq {s t : State} (h : execExecute s = .next t) :
    t = { s with plb := { s.plb with valid := false }, seq := t.seq, result := t.result } := by
  obtain ⟨-, ⟨-, rfl⟩ | ⟨-, rfl⟩⟩ := execExecute_next h
  · exact beginSequence_eq s
  · rfl

theorem execWriteOp_eq {cap : Nat} {s t : State} (h : execWriteOp cap s = .next t) :
    t = { s with pln := t.pln, plb := t.plb, seq := t.seq, result := t.result } := by
  obtain ⟨p, L, S, -, ⟨-, rfl⟩ | ⟨-, w, -, rfl⟩ | ⟨-, w, -, rfl⟩⟩ := execWriteOp_next h
  · rfl
  · rw [beginSequence_eq]
    rfl
  · rfl

/-- Settles O40: both operations end by starting a sequence or by raising an error. -/
theorem hostOperationsFrame : Obligations.HostOperationsFrame :=
  ⟨fun _ _ h => execExecute_eq h, fun _ _ _ h => execWriteOp_eq h⟩

/-- Settles O37: the frame of WRITE_OP, and the two errors it can raise. -/
theorem writeOpChecksBeforeTransport : Obligations.WriteOpChecksBeforeTransport := by
  intro s cap
  refine ⟨fun t h => ?_, fun p L S hprem => ⟨fun hg => ?_, fun hg hc => ?_⟩⟩
  · rw [execWriteOp_eq h]
    exact ⟨rfl, rfl, rfl⟩
  · exact ⟨_, execWriteOp_of_badConfig hprem hg, rfl, rfl⟩
  · obtain ⟨w, hexec⟩ := execWriteOp_tooLong hprem hg hc
    exact ⟨_, hexec, rfl, rfl, rfl⟩

end Sys2Proof.Machine
end

section
/-! PROOFS. A whole sequence: it never stops by refusal or fault, and the state it reaches after each whole segment
while its transfers succeed and its sleeps end (`afterSegments`, 41_write_sequencer R152, R178). -/

namespace Sys2Proof.Machine

/-! ## Frames that can be sent -/

/-- Every frame of the sequence can be built and fits `FRAME_MAX` (41_write_sequencer R151), and a 16-bit slot index
passes every slot. -/
structure Sendable (s : State) : Prop where
  count : s.plb.count ≤ 65535
  wren : s.cfg.wrenFrame.length ≤ Config.frameMax
  write : ∀ g ∈ s.plb.seg, ∃ frame, segmentFrame s g = some frame ∧ frame.length ≤ Config.frameMax

theorem segmentFrame_length {s : State} {g : PageSegment} {frame : List Byte} (hg : GoodConfig s.cfg)
    (h : segmentFrame s g = some frame) :
    frame.length = 1 + s.cfg.addressByteWidth.toNat + g.length.toNat := by
  obtain ⟨format, data, hf, hd, rfl⟩ := segmentFrame_eq_some.1 h
  obtain ⟨format', hf', hwidth⟩ := writeFormat_of_good hg
  cases hf.symm.trans hf'
  have hdata : data.length = g.length.toNat := Payload.memRead_length hd
  simp only [List.length_append, List.length_singleton, encAddr_length, hwidth, hdata]

/-- A good configuration, a payload that reads and frames that fit make a sequence sendable. -/
theorem Sendable.of_framesFit {s : State} (hcount : s.plb.count ≤ 65535) (hg : GoodConfig s.cfg)
    (hdata : ∀ g ∈ s.plb.seg, s.pay.segmentData g ≠ none) (hfit : FramesFit s.cfg s.plb.seg) :
    Sendable s where
  count := hcount
  wren := hfit.wren
  write := by
    intro g hmem
    obtain ⟨format, hf, -⟩ := writeFormat_of_good hg
    obtain ⟨data, hd⟩ := Option.ne_none_iff_exists'.1 (hdata g hmem)
    have hframe := segmentFrame_eq_some.2 ⟨format, data, hf, hd, rfl⟩
    exact ⟨_, hframe, by rw [segmentFrame_length hg hframe]; exact hfit.write g hmem⟩

theorem ExecutePremises.sendable {s : State} (h : ExecutePremises s) (hg : GoodConfig s.cfg)
    (hcount : s.plb.count ≤ 65535) : Sendable s :=
  .of_framesFit hcount hg (fun g hmem => segmentData_ne_none (h.bounds g hmem) (h.bytes g hmem))
    (h.frames hg)

/-- A slot inside the plan holds a segment, and its frame can be sent. -/
theorem Sendable.slot {s : State} (h : Sendable s) {k : Nat} (hk : k < s.plb.count) :
    ∃ g frame, s.plb.seg[k]? = some g ∧ segmentFrame s g = some frame ∧
      frame.length ≤ Config.frameMax := by
  obtain ⟨frame, hframe, hlen⟩ := h.write _ (List.getElem_mem hk)
  exact ⟨_, frame, List.getElem?_eq_getElem hk, hframe, hlen⟩

/-! ## A running sequence never stops -/

/-- A round trip of a frame that fits answers a next state (log 5). -/
theorem transfer_of_fits {out : List Byte} (h : out.length ≤ Config.frameMax) (rt : RoundTrip) (nx : Phase)
    (s : State) : ∃ t, transfer out rt nx s = .next t := by
  rcases transferWith_cases Config.respCheck out rt nx s with ⟨hlong, -⟩ | ⟨-, -, he⟩ | ⟨-, r, rest, -, he⟩
  · exact absurd h (Nat.not_le_of_lt hlong)
  · exact ⟨_, he⟩
  · exact ⟨_, he⟩

theorem sleep_next (ms : Millis) (s : State) : ∃ t, sleep ms s = .next t := by
  rcases sleep_cases ms s with ⟨-, he⟩ | ⟨n, -, he⟩
  · exact ⟨_, he⟩
  · exact ⟨_, he⟩

/-- Settles O54: every frame of a running sequence can be sent. -/
theorem runningSequenceNeverStops : Obligations.RunningSequenceNeverStops := by
  intro s hinv hrun
  obtain ⟨hslot, -, -, hgood, hdata, hframes⟩ := hinv.running hrun
  have hsend := Sendable.of_framesFit hinv.count hgood hdata hframes
  cases hp : s.seq.phase with
  | idle => exact absurd hp hrun
  | wren =>
    rw [step_wren hp]
    exact transfer_of_fits hsend.wren .wren .write s
  | write =>
    obtain ⟨g, frame, hg, hframe, hlen⟩ := hsend.slot hslot
    rw [step_write_frame hp hg hframe]
    exact transfer_of_fits hlen .write .delay s
  | delay =>
    rw [step_delay hp]
    exact sleep_next s.cfg.interPageDelayMs s

/-! ## Whole segments (41_write_sequencer R152, R178) -/

/-- The state once the transfer of `out` has succeeded, with the answers `rest` left. -/
def afterSuccess (out : List Byte) (next : Phase) (rest : List Response) (s : State) : State :=
  { s with
    frm := out
    transport := rest
    trace := s.trace ++ [.transfer out .success]
    seq := { s.seq with phase := next } }

theorem transfer_success {out inBytes : List Byte} {rest : List Response} {s : State}
    (hlen : out.length ≤ Config.frameMax) (ht : s.transport = .success inBytes :: rest) (rt : RoundTrip)
    (nx : Phase) : transfer out rt nx s = .next (afterSuccess out nx rest s) :=
  transfer_answered hlen ht rt nx

theorem successTrace_append (s : State) (xs ys : List PageSegment) :
    successTrace s (xs ++ ys) = successTrace s xs ++ successTrace s ys := by
  induction xs with
  | nil => rfl
  | cons g gs ih => simp [successTrace, ih]

/-- The trace of a sequence does not depend on the host's further moves. -/
@[simp] theorem successTrace_setHost (s : State) (rest : List HostMove) (segs : List PageSegment) :
    successTrace (s.setHost rest) segs = successTrace s segs := by
  induction segs with
  | nil => rfl
  | cons g gs ih => simp [successTrace, segmentFrame, ih]

/-- One more segment adds its write-enable, its addressed write and its sleep. -/
theorem successTrace_take_succ {s : State} {segs : List PageSegment} {j : Nat} {g : PageSegment}
    {frame : List Byte} (hg : segs[j]? = some g) (hframe : segmentFrame s g = some frame) :
    successTrace s (segs.take (j + 1)) = successTrace s (segs.take j) ++
      [.transfer s.cfg.wrenFrame .success, .transfer frame .success, .sleep s.cfg.interPageDelayMs] := by
  rw [List.take_add_one, hg, successTrace_append]
  simp [successTrace, hframe]

/-- The state of the sequence that starts in `s` once its first `j` segments are written and their delays have ended,
with the answers `answers` left; what `FRM` and `TMR` then show is log 18. -/
def afterSegments (s : State) (j : Nat) (answers : List Response) (frm : List Byte) (tmr : Millis) : State :=
  { s with
    plb := { s.plb with valid := false }
    seq := ⟨BitVec.ofNat 16 j, if j < s.plb.count then .wren else .idle⟩
    result := if j < s.plb.count then s.result else .ok
    frm := frm
    tmr := tmr
    transport := answers
    wakes := s.wakes - j
    trace := s.trace ++ successTrace s (s.plb.seg.take j) }

/-- A sequence begins before its first segment. -/
theorem beginSequence_eq_afterSegments (s : State) :
    beginSequence s = afterSegments s 0 s.transport s.frm s.tmr := by
  have htrace : s.trace ++ successTrace s (s.plb.seg.take 0) = s.trace := by simp [successTrace]
  rw [afterSegments, htrace]
  rcases beginSequence_cases s with ⟨hseg, h⟩ | ⟨hseg, h⟩ <;> rw [h]
  · have hcount : ¬ 0 < s.plb.count := by simp [Plb.count, hseg]
    rw [if_neg hcount, if_neg hcount]
    rfl
  · have hcount : 0 < s.plb.count := List.length_pos_iff.2 hseg
    rw [if_pos hcount, if_pos hcount]
    rfl

/-- The step after `j` segments is the write-enable of the next. -/
theorem step_wren_afterSegments {s : State} {j : Nat} (hj : j < s.plb.count) (answers : List Response)
    (frm : List Byte) (tmr : Millis) : step (afterSegments s j answers frm tmr) =
      transfer s.cfg.wrenFrame .wren .write (afterSegments s j answers frm tmr) :=
  step_wren (if_pos hj)

section Segments

variable {s : State} (hsend : Sendable s)
include hsend

/-- The index of a slot inside the plan does not wrap. -/
theorem Sendable.index_toNat {j : Nat} (hj : j < s.plb.count) : (BitVec.ofNat 16 j : Word).toNat = j := by
  have hcount := hsend.count
  rw [BitVec.toNat_ofNat]
  omega

/-- After a write-enable that succeeded the step is the addressed write of slot `j`. -/
theorem step_write_afterSegments {j : Nat} {g : PageSegment} {frame frm : List Byte} {tmr : Millis}
    {answers rest : List Response} (hj : j < s.plb.count) (hg : s.plb.seg[j]? = some g)
    (hframe : segmentFrame s g = some frame) :
    step (afterSuccess s.cfg.wrenFrame .write rest (afterSegments s j answers frm tmr)) =
      transfer frame .write .delay
        (afterSuccess s.cfg.wrenFrame .write rest (afterSegments s j answers frm tmr)) := by
  have hslot : s.plb.seg[(BitVec.ofNat 16 j : Word).toNat]? = some g := by
    rw [hsend.index_toNat hj]; exact hg
  exact step_write_frame rfl hslot hframe

/-- After the two transfers of slot `j` the delay is the step to `j + 1` segments (41_write_sequencer R173, R177). -/
theorem step_delay_afterSegments {j : Nat} {g : PageSegment} {frame frm : List Byte} {tmr : Millis}
    {answers answers' more : List Response} (hj : j < s.plb.count) (hwakes : j < s.wakes)
    (hg : s.plb.seg[j]? = some g) (hframe : segmentFrame s g = some frame) :
    step (afterSuccess frame .delay more
        (afterSuccess s.cfg.wrenFrame .write answers' (afterSegments s j answers frm tmr))) =
      .next (afterSegments s (j + 1) more frame s.cfg.interPageDelayMs) := by
  have hindex := hsend.index_toNat hj
  have hnext : BitVec.ofNat 16 j + 1#16 = BitVec.ofNat 16 (j + 1) := (BitVec.ofNat_add j 1).symm
  have htrace := successTrace_take_succ hg hframe
  have hleft : s.wakes - j = s.wakes - (j + 1) + 1 := by omega
  rw [step_delay rfl]
  refine (sleep_ended s.cfg.interPageDelayMs hleft).trans (congrArg Host.Outcome.next ?_)
  rcases Nat.lt_or_eq_of_le (Nat.succ_le_of_lt hj) with hmore | hlast
  · refine (advance_of_lt ((congrArg (· + 1) hindex).trans_lt hmore)).trans ?_
    simp [State.setSeq, State.emit, State.setTrace, State.setTmr, State.setWakes, afterSuccess,
      afterSegments, hj, hmore, hnext, htrace]
  · have hlen : s.plb.seg.length = j + 1 := hlast.symm
    refine (advance_of_last ((congrArg (· + 1) hindex).trans hlast)).trans ?_
    simp [State.setSeq, State.setResult, State.emit, State.setTrace, State.setTmr, State.setWakes,
      afterSuccess, afterSegments, Plb.count, hlen, htrace]

/-- Two successes and an ended sleep take the sequence from `j` segments to `j + 1`. -/
theorem runSteps_segment {j : Nat} (hj : j < s.plb.count) (hwakes : j < s.wakes) (a b : List Byte)
    (more : List Response) (frm : List Byte) (tmr : Millis) :
    ∃ frm', runSteps 3 (afterSegments s j (.success a :: .success b :: more) frm tmr) =
      .next (afterSegments s (j + 1) more frm' s.cfg.interPageDelayMs) := by
  obtain ⟨g, frame, hg, hframe, hlen⟩ := hsend.slot hj
  have hsent : step (afterSegments s j (.success a :: .success b :: more) frm tmr) = .next _ :=
    (step_wren_afterSegments hj _ frm tmr).trans (transfer_success hsend.wren rfl .wren .write)
  have hwritten : step (afterSuccess s.cfg.wrenFrame .write (.success b :: more)
      (afterSegments s j (.success a :: .success b :: more) frm tmr)) = .next _ :=
    (step_write_afterSegments hsend hj hg hframe).trans (transfer_success hlen rfl .write .delay)
  exact ⟨frame, by rw [runSteps_next hsent, runSteps_next hwritten, runSteps_one,
    step_delay_afterSegments hsend hj hwakes hg hframe]⟩

/-- While its transfers succeed and its sleeps end, a sequence takes three steps for each segment. -/
theorem runSteps_segments (more : List Response) : ∀ (n j : Nat) (answers : List (List Byte))
    (frm : List Byte) (tmr : Millis), answers.length = 2 * n → j + n ≤ s.plb.count → j + n ≤ s.wakes →
    ∃ frm' tmr', runSteps (3 * n) (afterSegments s j (answers.map .success ++ more) frm tmr) =
      .next (afterSegments s (j + n) more frm' tmr') := by
  intro n
  induction n with
  | zero =>
    intro j answers frm tmr hlen _ _
    cases List.length_eq_zero_iff.1 hlen
    exact ⟨frm, tmr, rfl⟩
  | succ n ih =>
    intro j answers frm tmr hlen hcount hwakes
    obtain ⟨a, b, answers, rfl⟩ : ∃ a b as, answers = a :: b :: as := by
      match answers, hlen with
      | a :: b :: as, _ => exact ⟨a, b, as, rfl⟩
    obtain ⟨frm₁, hfirst⟩ := runSteps_segment hsend (j := j) (by omega) (by omega) a b
      (answers.map .success ++ more) frm tmr
    obtain ⟨frm₂, tmr₂, hrest⟩ := ih (j + 1) answers frm₁ s.cfg.interPageDelayMs
      (by simpa [Nat.mul_succ] using hlen) (by omega) (by omega)
    refine ⟨frm₂, tmr₂, ?_⟩
    rw [show 3 * (n + 1) = 3 + 3 * n by omega, show j + (n + 1) = j + 1 + n by omega]
    exact (runSteps_add (3 * n) hfirst).trans hrest

/-- A host operation that starts a sequence, and the whole segments whose transfers succeed. -/
theorem runSteps_start {s₀ : State} {n : Nat} {answers : List (List Byte)} {more : List Response}
    (hstart : step s₀ = .next (beginSequence s)) (hlen : answers.length = 2 * n)
    (ht : s.transport = answers.map .success ++ more) (hcount : n ≤ s.plb.count) (hwakes : n ≤ s.wakes) :
    ∃ frm tmr, runSteps (1 + 3 * n) s₀ = .next (afterSegments s n more frm tmr) := by
  obtain ⟨frm, tmr, hrun⟩ := runSteps_segments hsend more n 0 answers s.frm s.tmr hlen
    (by omega) (by omega)
  refine ⟨frm, tmr, ?_⟩
  rw [Nat.add_comm, runSteps_next hstart, beginSequence_eq_afterSegments, ht, hrun, Nat.zero_add]

end Segments

end Sys2Proof.Machine
end

section
/-! PROOFS. EXECUTE and WRITE_OP as a whole: the trace while every transfer succeeds, the trace up to the first that
does not, and what the device is asked for (41_write_sequencer R178, R179). -/

namespace Sys2Proof.Machine

/-! ## EXECUTE from the host's queue -/

/-- The premises of EXECUTE do not speak of the host's further moves. -/
theorem ExecutePremises.setHost {s : State} (h : ExecutePremises s) (rest : List HostMove) :
    ExecutePremises (s.setHost rest) := by
  obtain ⟨hcfg, hpay, hvalid, hbounds, hbytes, hframes⟩ := h
  exact ⟨hcfg, hpay, hvalid, hbounds, hbytes, hframes⟩

/-- The premises of WRITE_OP do not speak of the host's further moves. -/
theorem WriteOpPremises.setHost {s : State} {p L S : Nat} (h : WriteOpPremises s p L S)
    (rest : List HostMove) : WriteOpPremises (s.setHost rest) p L S := by
  obtain ⟨hops, hcfg, hpay, hlen, hbytes, hrange, hframes⟩ := h
  exact ⟨hops, hcfg, hpay, hlen, hbytes, hrange, hframes⟩

/-- An EXECUTE that the host starts on its premises begins the sequence of its plan, which can be sent. -/
theorem step_execute {s : State} {rest : List HostMove} (hp : s.seq.phase = .idle)
    (hh : s.host = .start 0b10 none :: rest) (hprem : ExecutePremises s) (hg : GoodConfig s.cfg)
    (hcount : s.plb.count ≤ 65535) :
    Sendable (s.setHost rest) ∧ step s = .next (beginSequence (s.setHost rest)) := by
  have hprem := hprem.setHost rest
  refine ⟨hprem.sendable hg hcount, ?_⟩
  rw [step_idle_start (i := .execute) hp hh rfl]
  exact execExecute_of_premises hprem hg

/-- Settles O49: the state after all segments. -/
theorem executeWithAllTransfersSucceeding : Obligations.ExecuteWithAllTransfersSucceeding := by
  intro s rest answers more hp hh hprem hg hcount hlen ht hwakes
  obtain ⟨hsend, hstart⟩ := step_execute hp hh hprem hg hcount
  obtain ⟨frm, tmr, hrun⟩ := runSteps_start hsend hstart hlen ht (Nat.le_refl s.plb.count) hwakes
  refine ⟨_, hrun, ?_⟩
  simp [afterSegments, Plb.count]

/-! ## The first transfer that fails (60_exceptions R209) -/

/-- A state in which the transfer at step `rt` of slot `j` has ended a sequence with the answer `bad`: the answers, the
host's moves and the trace are those given. -/
structure StoppedBy (bad : Response) (rt : RoundTrip) (j : Nat) (answers : List Response)
    (host : List HostMove) (trace : List Event) (t : State) : Prop where
  result : t.result = .error (failureError (BitVec.ofNat 16 (j + 1)) rt bad)
  seq : t.seq = ⟨BitVec.ofNat 16 j, .idle⟩
  valid : t.plb.valid = false
  transport : t.transport = answers
  host : t.host = host
  trace : t.trace = trace

theorem ordinal_ofNat (j : Nat) : ordinal (BitVec.ofNat 16 j) = BitVec.ofNat 16 (j + 1) :=
  (BitVec.ofNat_add j 1).symm

/-- An answer that is no success ends the sequence with the error of its segment and step. -/
theorem transfer_failed {out : List Byte} {bad : Response} {rest : List Response} {s : State} {j : Nat}
    (hbad : bad.succeeded = false) (hlen : out.length ≤ Config.frameMax) (ht : s.transport = bad :: rest)
    (hj : s.seq.index = BitVec.ofNat 16 j) (rt : RoundTrip) (nx : Phase) :
    ∃ t, transfer out rt nx s = .next t ∧
      StoppedBy bad rt j rest s.host (s.trace ++ [.transfer out bad.status]) t := by
  refine ⟨_, transfer_answered hlen ht rt nx, ?_⟩
  cases bad with
  | success inBytes => cases hbad
  | failure inBytes =>
    exact ⟨by simp [hj, ordinal_ofNat, failureError], by simp [hj, WriteError.ofTransfer], rfl, rfl, rfl, rfl⟩
  | fault d =>
    exact ⟨by simp [hj, ordinal_ofNat, failureError], by simp [hj, WriteError.ofTransfer], rfl, rfl, rfl, rfl⟩

section FirstFailure

variable {s : State} (hsend : Sendable s) {j : Nat} (hj : j < s.plb.count) {bad : Response}
  (hbad : bad.succeeded = false) (more : List Response) (frm : List Byte) (tmr : Millis)
include hsend hj hbad

/-- A write-enable that fails after `j` whole segments. -/
theorem wren_failed : ∃ t, runSteps 1 (afterSegments s j (bad :: more) frm tmr) = .next t ∧
    StoppedBy bad .wren j more s.host
      (s.trace ++ successTrace s (s.plb.seg.take j) ++ [.transfer s.cfg.wrenFrame bad.status]) t := by
  rw [runSteps_one, step_wren_afterSegments hj]
  exact transfer_failed hbad hsend.wren rfl rfl .wren .write

/-- An addressed write that fails after `j` whole segments and its own write-enable. -/
theorem write_failed {g : PageSegment} {frame : List Byte} (hg : s.plb.seg[j]? = some g)
    (hframe : segmentFrame s g = some frame) (hlen : frame.length ≤ Config.frameMax) (a : List Byte) :
    ∃ t, runSteps 2 (afterSegments s j (.success a :: bad :: more) frm tmr) = .next t ∧
    StoppedBy bad .write j more s.host (s.trace ++ successTrace s (s.plb.seg.take j) ++
      [.transfer s.cfg.wrenFrame .success, .transfer frame bad.status]) t := by
  have hsent : step (afterSegments s j (.success a :: bad :: more) frm tmr) = .next _ :=
    (step_wren_afterSegments hj _ frm tmr).trans (transfer_success hsend.wren rfl .wren .write)
  rw [runSteps_next hsent, runSteps_one, step_write_afterSegments hsend hj hg hframe,
    List.append_cons _ (Event.transfer _ _) [_]]
  exact transfer_failed hbad hlen rfl rfl .write .delay

/-- The first transfer that fails after `j` whole segments: the write-enable of its segment, or the addressed write
after a write-enable that succeeded. -/
theorem firstFailure {g : PageSegment} {frame : List Byte} (hg : s.plb.seg[j]? = some g)
    (hframe : segmentFrame s g = some frame) {last : List (List Byte)} (hlast : last.length < 2) :
    ∃ t, runSteps (last.length + 1) (afterSegments s j (last.map .success ++ bad :: more) frm tmr) = .next t ∧
    StoppedBy bad (if last.length = 0 then .wren else .write) j more s.host
      (s.trace ++ successTrace s (s.plb.seg.take j) ++
        if last.length = 0 then [.transfer s.cfg.wrenFrame bad.status]
        else [.transfer s.cfg.wrenFrame .success, .transfer frame bad.status]) t := by
  match last, hlast with
  | [], _ => exact wren_failed hsend hj hbad more frm tmr
  | [a], _ =>
    obtain ⟨frame', hframe', hlen⟩ := hsend.write g (List.mem_of_getElem? hg)
    cases hframe.symm.trans hframe'
    exact write_failed hsend hj hbad more frm tmr hg hframe hlen a

end FirstFailure

/-- Settles O50: the whole segments before the failure, then one transfer or two. -/
theorem executeStopsAtFirstFailedTransfer : Obligations.ExecuteStopsAtFirstFailedTransfer := by
  intro s rest answers bad more g frame hp hh hprem hg hcount hlen hbad ht hwakes hslot hframe
  obtain ⟨hsend, hstart⟩ := step_execute hp hh hprem hg hcount
  generalize hj : answers.length / 2 = j at *
  have hjcount : j < s.plb.count := by omega
  have hwhole : (answers.take (2 * j)).length = 2 * j := by rw [List.length_take]; omega
  have hlast : answers.length % 2 = (answers.drop (2 * j)).length := by rw [List.length_drop]; omega
  have hsplit : s.transport = (answers.take (2 * j)).map .success ++
      ((answers.drop (2 * j)).map .success ++ bad :: more) := by
    rw [ht, ← List.append_assoc, ← List.map_append, List.take_append_drop]
  obtain ⟨frm, tmr, hrun⟩ := runSteps_start hsend hstart hwhole hsplit hjcount.le hwakes
  obtain ⟨t, hfail, hstop⟩ := firstFailure hsend hjcount hbad more frm tmr hslot hframe
    (last := answers.drop (2 * j)) (by omega)
  rw [Nat.add_assoc, runSteps_add _ hrun, hlast]
  exact ⟨t, hfail, hstop.result, hstop.seq, hstop.valid, hstop.transport, hstop.host, by
    simpa using hstop.trace⟩

/-! ## What the device is asked for (41_write_sequencer R179) -/

theorem cellsAt_append (xs ys : List Byte) : ∀ a : Nat,
    cellsAt a (xs ++ ys) = cellsAt a xs ++ cellsAt (a + xs.length) ys := by
  induction xs with
  | nil => intro a; rfl
  | cons x xs ih =>
    intro a
    simp only [List.cons_append, cellsAt, ih, List.length_cons, Nat.add_right_comm a 1, Nat.add_assoc]

/-- The addressed-write frames of a sequence whose transfers succeed are those of its segments. -/
theorem writeFrames_successTrace (s : State) (segs : List PageSegment) :
    writeFrames (sentFrames (successTrace s segs)) = segs.map fun g => (segmentFrame s g).getD [] := by
  induction segs with
  | nil => rfl
  | cons g gs ih => simp [successTrace, sentFrames, writeFrames, ih]

/-- A frame with a two-byte address asks for its data at its address. -/
theorem requestedCells_frame {format : AddressFormat} (hf : format ≠ .a1) (opcode : Byte) (address : Word)
    {data : List Byte} (h : 1 ≤ data.length) :
    requestedCells format ([opcode] ++ encAddr format address ++ data) = cellsAt address.toNat data := by
  rw [requestedCells, decodeWrite_frame format opcode address h]
  cases format with
  | a1 => exact absurd rfl hf
  | a2b => rfl
  | a2l => rfl

/-- The frame of a segment asks for its payload bytes at its address. -/
theorem requestedCells_segment {s : State} {g : PageSegment} {format : AddressFormat}
    (hf : s.cfg.writeFormat = some format) (hne : format ≠ .a1) (hdata : s.pay.segmentData g ≠ none)
    (hlen : 1 ≤ g.length.toNat) : requestedCells format ((segmentFrame s g).getD []) =
      cellsAt g.address.toNat ((s.pay.segmentData g).getD []) := by
  obtain ⟨data, hd⟩ := Option.ne_none_iff_exists'.1 hdata
  have hread : data.length = g.length.toNat := Payload.memRead_length hd
  rw [segmentFrame_eq_some.2 ⟨format, data, hf, hd, rfl⟩, hd, Option.getD_some, Option.getD_some,
    requestedCells_frame hne _ _ (by omega)]

/-- The slices of a chain, each at its device address, are one run of bytes from the chain's start. -/
theorem cellsAt_chainFrom {pay : Payload} {segs : List PageSegment} : ∀ {a o : Nat}, chainFrom a o segs →
    (∀ g ∈ segs, pay.segmentData g ≠ none) →
    (segs.flatMap fun g => cellsAt g.address.toNat ((pay.segmentData g).getD [])) =
      cellsAt a (segs.map fun g => (pay.segmentData g).getD []).flatten := by
  induction segs with
  | nil => intro a o _ _; rfl
  | cons g gs ih =>
    rintro a o ⟨haddr, -, -, -, hrest⟩ hdata
    obtain ⟨hg, hgs⟩ := List.forall_mem_cons.1 hdata
    obtain ⟨data, hd⟩ := Option.ne_none_iff_exists'.1 hg
    have hlen : data.length = g.length.toNat := Payload.memRead_length hd
    rw [List.flatMap_cons, List.map_cons, List.flatten_cons, cellsAt_append, ih hrest hgs, hd,
      Option.getD_some, hlen, haddr]

/-- A sequence over a chain of segments that hold the whole payload asks the device for the payload from the chain's
start on, each byte once. -/
theorem deviceRequests_successTrace {s : State} {format : AddressFormat} {S : Nat} {payload : List Byte}
    {segs : List PageSegment} (hf : s.cfg.writeFormat = some format) (hne : format ≠ .a1)
    (hread : s.pay.memRead 0 (lengthSum segs) = some payload) (hchain : chainFrom S 0 segs) :
    deviceRequests format (successTrace s segs) = cellsAt S payload := by
  obtain ⟨hdata, hflat⟩ := chainFrom_segmentData hread hchain (Nat.zero_add _).le
  have hall : (segs.map fun g => (s.pay.segmentData g).getD []).flatten = payload := by
    rw [hflat, List.drop_zero, ← Payload.memRead_length hread, List.take_length]
  rw [deviceRequests, writeFrames_successTrace, List.flatMap_map, ← hall, ← cellsAt_chainFrom hchain hdata]
  exact List.flatMap_congr fun g hg =>
    requestedCells_segment hf hne (hdata g hg) (chainFrom_length_pos hchain g hg)

/-! ## WRITE_OP from the host's queue -/

/-- A WRITE_OP that the host starts on its premises, of a plan that the buffer holds, begins the sequence of the whole
plan, which can be sent. -/
theorem step_writeOp {s : State} {rest : List HostMove} {cap p L S : Nat} (hp : s.seq.phase = .idle)
    (hh : s.host = .start 0b11 (some cap) :: rest) (hprem : WriteOpPremises s p L S)
    (hg : GoodConfig s.cfg) (hc : pageCount p L S ≤ cap) :
    ∃ w, w.segs = closedPlan p L S ∧ Sendable (storePlan w (openPlan cap (s.setHost rest))) ∧
      step s = .next (beginSequence (storePlan w (openPlan cap (s.setHost rest)))) := by
  have hprem := hprem.setHost rest
  obtain ⟨w, hsegs, hexec⟩ := execWriteOp_fits hprem hg hc
  refine ⟨w, hsegs, ?_, by rw [step_idle_start (i := .writeOp cap) hp hh rfl]; exact hexec⟩
  obtain ⟨-, hL, -⟩ := planOperands_bounds hprem.operands
  have hcount : w.segs.length ≤ 65535 := by
    have := pageCount_le (page_pos hprem.operands hg) L S
    rw [hsegs, closedPlan_length]
    omega
  have hvalid : ExecutePremises ((storePlan w (openPlan cap (s.setHost rest))).setValid true) :=
    hprem.executePremises hg ⟨rfl, rfl, rfl, rfl, rfl⟩ rfl hsegs
  obtain ⟨hcount, hwren, hwrite⟩ := hvalid.sendable hg hcount
  exact ⟨hcount, hwren, hwrite⟩

/-- Settles O51: the segments of the plan are a chain that holds the whole payload. -/
theorem writeOpAsksForEveryByteOnce : Obligations.WriteOpAsksForEveryByteOnce := by
  intro s rest cap p L S format payload answers more hp hh hprem hg hf hne hread hc hlen ht hwakes
  obtain ⟨w, hsegs, hsend, hstart⟩ := step_writeOp hp hh hprem hg hc
  have hcount : w.segs.length = pageCount p L S := by rw [hsegs, closedPlan_length]
  obtain ⟨frm, tmr, hrun⟩ := runSteps_start hsend hstart hlen ht hcount.ge hwakes
  have hpos := page_pos hprem.operands hg
  obtain ⟨-, hL, hS⟩ := planOperands_bounds hprem.operands
  have hsum := lengthSum_closedPlan hpos hL hS hprem.range
  have hchain := closedPlan_chain hpos hL hS hprem.range
  have hover : ¬ pageCount p L S < w.segs.length := hcount.not_gt
  refine ⟨_, _, hrun, if_neg hover, congrArg (Position.mk _) (if_neg hover), rfl, ?_⟩
  change deviceRequests format (successTrace _ (w.segs.take (pageCount p L S))) = cellsAt S payload
  rw [← hcount, List.take_length, hsegs]
  exact deviceRequests_successTrace hf hne (by rw [hsum]; exact hread) hchain

end Sys2Proof.Machine
end

section
/-! PROOFS. Errors and waiting (60_exceptions): where ConfigError comes from, what a raised error leaves, what an
unanswered request does, and the plan of a request that resumes after a failure. -/

namespace Sys2Proof.Machine

/-! ## ConfigError of EXECUTE and WRITE_OP (60_exceptions R201) -/

/-- From an idle block a sequence that begins either moves the sequencer or ends with `ok`: it never reports an error
where the block stood. -/
theorem beginSequence_reports_no_error {s : State} (hp : s.seq.phase = .idle) (e : WriteError) :
    ¬ ((beginSequence s).result = .error e ∧ (beginSequence s).seq = s.seq) := by
  rintro ⟨herr, hseq⟩
  rcases beginSequence_cases s with ⟨-, h⟩ | ⟨-, h⟩
  · simp [h] at herr
  · simp [← hseq, h] at hp

/-- An EXECUTE that an idle block ends with ConfigError found a bad configuration. -/
theorem execExecute_configError {s t : State} (hp : s.seq.phase = .idle) (h : execExecute s = .next t)
    (herr : t.result = .error .configError) (hseq : t.seq = s.seq) : ¬ GoodConfig s.cfg := by
  obtain ⟨-, ⟨-, rfl⟩ | ⟨hbad, -⟩⟩ := execExecute_next h
  · exact absurd ⟨herr, hseq⟩ (beginSequence_reports_no_error hp _)
  · exact hbad

/-- A WRITE_OP that an idle block ends with ConfigError found a bad configuration. -/
theorem execWriteOp_configError {cap : Nat} {s t : State} (hp : s.seq.phase = .idle)
    (h : execWriteOp cap s = .next t) (herr : t.result = .error .configError) (hseq : t.seq = s.seq) :
    ¬ GoodConfig s.cfg := by
  obtain ⟨p, L, S, -, ⟨hbad, -⟩ | ⟨-, w, -, rfl⟩ | ⟨-, w, -, rfl⟩⟩ := execWriteOp_next h
  · exact hbad
  · exact absurd ⟨herr, hseq⟩ (beginSequence_reports_no_error (s := storePlan w (openPlan cap s)) hp _)
  · simp at herr

/-- Settles O34: under the premises a bad configuration raises ConfigError, and nothing else does. -/
theorem invalidConfigurationIsConfigError : Obligations.InvalidConfigurationIsConfigError := by
  refine fun s hp => ⟨fun hprem => ⟨?_, fun hbad => ?_⟩, fun hprem hbad => ?_, fun cap p L S hprem hbad => ?_,
    fun cap p L S hprem => ⟨?_, fun hbad => ?_⟩⟩
  · rintro ⟨t, h, herr, hseq⟩
    exact execExecute_configError hp h herr hseq
  · exact ⟨_, execExecute_of_badConfig hprem hbad, rfl, rfl⟩
  · exact execExecute_of_badConfig hprem hbad
  · exact execWriteOp_of_badConfig hprem hbad
  · rintro ⟨t, h, herr, hseq⟩
    exact execWriteOp_configError hp h herr hseq
  · exact ⟨_, execWriteOp_of_badConfig hprem hbad, rfl, rfl⟩

/-! ## Waiting for an answer (60_exceptions R215, R227) -/

/-- While the Transport does not answer, a frame that fits is handed over and nothing else happens (log 5). -/
theorem transfer_unanswered {out : List Byte} {s : State} (hlen : out.length ≤ Config.frameMax)
    (ht : s.transport = []) (rt : RoundTrip) (nx : Phase) : transfer out rt nx s = .next (s.setFrm out) := by
  simp [transfer, transferWith, ht, hlen.not_gt]

/-- While the Clock does not end a sleep, it is requested and nothing else happens (log 5). -/
theorem sleep_unended {s : State} (hw : s.wakes = 0) (ms : Millis) : sleep ms s = .next (s.setTmr ms) := by
  simp [sleep, hw]

/-- A state that a step answers with itself is the end of every run that reaches it. -/
theorem runSteps_fixed {t : State} (h : step t = .next t) : ∀ k, runSteps k t = .next t
  | 0 => rfl
  | k + 1 => by rw [runSteps_next h, runSteps_fixed h k]

/-- A running sequence without an answer makes its request, and makes the same request again ever after. -/
theorem step_unanswered {s : State} (hinv : Inv s) (hrun : s.seq.phase ≠ .idle)
    (ht : s.seq.phase ≠ .delay → s.transport = []) (hw : s.seq.phase = .delay → s.wakes = 0) :
    ∃ t, step s = .next t ∧ step t = .next t ∧ t = { s with frm := t.frm, tmr := t.tmr } := by
  obtain ⟨hslot, -, -, hgood, hdata, hframes⟩ := hinv.running hrun
  have hsend := Sendable.of_framesFit hinv.count hgood hdata hframes
  cases hp : s.seq.phase with
  | idle => exact absurd hp hrun
  | wren =>
    have ht := ht (by simp [hp])
    exact ⟨s.setFrm s.cfg.wrenFrame,
      (step_wren hp).trans (transfer_unanswered hsend.wren ht .wren .write),
      (step_wren (s := s.setFrm s.cfg.wrenFrame) hp).trans
        (transfer_unanswered (s := s.setFrm s.cfg.wrenFrame) hsend.wren ht .wren .write), rfl⟩
  | write =>
    have ht := ht (by simp [hp])
    obtain ⟨g, frame, hg, hframe, hlen⟩ := hsend.slot hslot
    exact ⟨s.setFrm frame,
      (step_write_frame hp hg hframe).trans (transfer_unanswered hlen ht .write .delay),
      (step_write_frame (s := s.setFrm frame) hp hg hframe).trans
        (transfer_unanswered (s := s.setFrm frame) hlen ht .write .delay), rfl⟩
  | delay =>
    have hw := hw hp
    exact ⟨s.setTmr s.cfg.interPageDelayMs,
      (step_delay hp).trans (sleep_unended hw _),
      (step_delay (s := s.setTmr s.cfg.interPageDelayMs) hp).trans
        (sleep_unended (s := s.setTmr s.cfg.interPageDelayMs) hw _), rfl⟩

/-- Settles O47: the waiting state is reached in one step and answered with itself from then on. -/
theorem unansweredRequestHangs : Obligations.UnansweredRequestHangs := by
  intro s hinv hrun ht hw
  obtain ⟨t, hstep, hfixed, hframe⟩ := step_unanswered hinv hrun ht hw
  exact ⟨t, fun k => by rw [runSteps_next hstep, runSteps_fixed hfixed], hframe⟩

/-! ## A new error is a raised one (60_exceptions R205, R208) -/

/-- The phase that makes a round trip. -/
def phaseOf : RoundTrip → Phase
  | .wren => .wren
  | .write => .write

/-- `u` is a state in which a step from `s` can raise `e`: operands and index are those of `s`, and an error that
names a round trip comes from its phase and names the ordinal of the slot, where any other is raised while idle. -/
structure RaisesFrom (s u : State) (e : WriteError) : Prop where
  cfg : u.cfg = s.cfg
  req : u.req = s.req
  pay : u.pay = s.pay
  written : u.written = s.written
  index : u.seq.index = s.seq.index
  idle : e.ofTransfer = false → u.seq.phase = .idle
  origin : ∀ rt, e.step = some rt → e.segment = some (ordinal s.seq.index) ∧ s.seq.phase = phaseOf rt

/-- A sequence that begins reports no new error. -/
theorem beginSequence_no_new_error {s : State} {e : WriteError} (herr : (beginSequence s).result = .error e) :
    s.result = .error e := by
  rcases beginSequence_cases s with ⟨-, h⟩ | ⟨-, h⟩ <;> rw [h] at herr
  · cases herr
  · exact herr

/-- A host operation started by an idle block raises ConfigError or CapacityError, before it has moved the
sequencer. -/
theorem start_raises {op : BitVec 2} {cap : Option Nat} {i : Instr} {s t : State} {e : WriteError}
    (hd : decode (.cmd op cap) = .ok i) (hp : s.seq.phase = .idle) (h : exec i s = .next t)
    (herr : t.result = .error e) (hnew : s.result ≠ .error e) : ∃ u, t = raise e u ∧ RaisesFrom s u e := by
  rcases decodeCmd_cases hd with ⟨n, -, rfl⟩ | rfl | ⟨n, -, rfl⟩
  · obtain ⟨p, L, S, -, -, ⟨-, rfl⟩ | ⟨-, w, -, rfl⟩ | ⟨-, w, -, rfl⟩⟩ := execPlan_next h <;>
      cases herr <;> exact ⟨_, rfl, rfl, rfl, rfl, rfl, rfl, fun _ => hp, nofun⟩
  · obtain ⟨-, ⟨-, rfl⟩ | ⟨-, rfl⟩⟩ := execExecute_next h
    · exact absurd (beginSequence_no_new_error herr) hnew
    · cases herr
      exact ⟨_, rfl, rfl, rfl, rfl, rfl, rfl, fun _ => hp, nofun⟩
  · obtain ⟨p, L, S, -, ⟨-, rfl⟩ | ⟨-, w, -, rfl⟩ | ⟨-, w, -, rfl⟩⟩ := execWriteOp_next h
    · cases herr
      exact ⟨_, rfl, rfl, rfl, rfl, rfl, rfl, fun _ => hp, nofun⟩
    · exact absurd (beginSequence_no_new_error herr) hnew
    · cases herr
      exact ⟨_, rfl, rfl, rfl, rfl, rfl, rfl, fun _ => hp, nofun⟩

/-- A round trip raises the error of its slot and its step (41_write_sequencer R164). -/
theorem transfer_raises {out : List Byte} {rt : RoundTrip} {nx : Phase} {s t : State} {e : WriteError}
    (hp : s.seq.phase = phaseOf rt) (h : transfer out rt nx s = .next t) (herr : t.result = .error e)
    (hnew : s.result ≠ .error e) : ∃ u, t = raise e u ∧ RaisesFrom s u e := by
  obtain ⟨-, ⟨-, rfl⟩ | ⟨r, rest, -, rfl⟩⟩ := transfer_next h
  · exact absurd herr hnew
  · rcases afterAnswer_cases Config.respCheck out rt nx r ((s.setFrm out).setTransport rest) with
      ha | ha | ⟨d, -, ha⟩ <;> rw [ha] at herr ⊢
    · exact absurd herr hnew
    · cases herr
      exact ⟨_, rfl, rfl, rfl, rfl, rfl, rfl, nofun, by rintro _ ⟨⟩; exact ⟨rfl, hp⟩⟩
    · cases herr
      exact ⟨_, rfl, rfl, rfl, rfl, rfl, rfl, nofun, by rintro _ ⟨⟩; exact ⟨rfl, hp⟩⟩

/-- A sleep reports no new error. -/
theorem sleep_no_new_error {ms : Millis} {s t : State} {e : WriteError} (h : sleep ms s = .next t)
    (herr : t.result = .error e) : s.result = .error e := by
  rcases sleep_cases ms s with ⟨-, he⟩ | ⟨n, -, he⟩ <;> rw [he] at h <;> cases h
  · exact herr
  · rcases advance_cases (((s.setTmr ms).setWakes n).emit (.sleep ms)) with ⟨-, ha⟩ | ⟨-, ha⟩ <;>
      rw [ha] at herr
    · exact herr
    · cases herr

/-- A step that reports an error `RESULT` did not hold has raised it. -/
theorem step_raises {s t : State} {e : WriteError} (h : step s = .next t) (herr : t.result = .error e)
    (hnew : s.result ≠ .error e) : ∃ u, t = raise e u ∧ RaisesFrom s u e := by
  rcases step_next_cases h with ⟨-, -, rfl⟩ | ⟨-, l, rest, -, hl⟩ | ⟨-, rest, -, rfl⟩ |
    ⟨hp, op, cap, rest, i, -, hd, hexec⟩ | ⟨hp, ht⟩ | ⟨hp, g, format, data, -, -, -, ht⟩ | ⟨-, -, rfl⟩ | ⟨-, hs⟩
  · exact absurd herr hnew
  · obtain ⟨-, rfl⟩ := hostLoad_next hl
    obtain ⟨-, -, -, hres, -⟩ := applyLoad_frame l (s.setHost rest)
    exact absurd (hres ▸ herr) hnew
  · cases herr
  · obtain ⟨u, rfl, hcfg, hreq, hpay, hwritten, hindex, hidle, horigin⟩ :=
      start_raises (s := s.setHost rest) hd hp hexec herr hnew
    exact ⟨u, rfl, hcfg, hreq, hpay, hwritten, hindex, hidle, horigin⟩
  · exact transfer_raises (rt := .wren) hp ht herr hnew
  · exact transfer_raises (rt := .write) hp ht herr hnew
  · cases herr
    exact ⟨_, rfl, rfl, rfl, rfl, rfl, rfl, fun _ => rfl, nofun⟩
  · exact absurd (sleep_no_new_error hs herr) hnew

/-- Settles O57: what `raise` does to the state it is called in. -/
theorem raisedErrorLeavesBlockIdle : Obligations.RaisedErrorLeavesBlockIdle := by
  intro s t e h herr hnew
  obtain ⟨u, rfl, hcfg, hreq, hpay, hwritten, hindex, hidle, horigin⟩ := step_raises h herr hnew
  refine ⟨?_, rfl, ?_, hcfg, hreq, hpay, hwritten, ?_⟩
  · cases he : e.ofTransfer <;> simp [he, hidle]
  · cases he : e.ofTransfer <;> simp [he, hindex]
  · intro g rt he
    obtain ⟨hstep, hseg⟩ : e.step = some rt ∧ e.segment = some g := by
      rcases he with rfl | ⟨d, rfl⟩ <;> exact ⟨rfl, rfl⟩
    obtain ⟨hordinal, hphase⟩ := horigin rt hstep
    exact ⟨Option.some.inj (hseg.symm.trans hordinal), hphase⟩

/-! ## Resuming after a failure (60_exceptions R210) -/

/-- Where the slice of page `S / p + k` begins. -/
def sliceStart (p S k : Nat) : Nat := max S ((S / p + k) * p)

/-- A slice begins in its own page and inside the range, at the start of the range or of the page. -/
theorem sliceStart_bounds {p L S k : Nat} (hp : 0 < p) (hk : k < pageCount p L S) :
    S ≤ sliceStart p S k ∧ sliceStart p S k < S + L ∧ sliceStart p S k / p = S / p + k ∧
      (sliceStart p S k = S ∨ sliceStart p S k / p * p = sliceStart p S k) := by
  obtain ⟨hfirst, hlater, -, -, hne, -⟩ := slice_bounds hp hk
  have hpage : sliceStart p S k / p = S / p + k :=
    div_eq_of_page (Nat.le_max_right _ _) (Nat.lt_of_lt_of_le hne (Nat.min_le_right _ _))
  refine ⟨Nat.le_max_left _ _, Nat.lt_of_lt_of_le hne (Nat.min_le_left _ _), hpage, ?_⟩
  rcases Nat.eq_zero_or_pos k with hk0 | hk0
  · exact .inl (hfirst hk0)
  · exact .inr (by rw [hpage]; exact (hlater hk0).symm)

/-- The tail of a plan is the slices from where its first segment begins. -/
theorem closedPlan_drop {p L S k : Nat} (hp : 0 < p) (hk : k < pageCount p L S) :
    (closedPlan p L S).drop k = slicesFrom p S (sliceStart p S k) (S + L) := by
  obtain ⟨hlo, hlt, hpage, -⟩ := sliceStart_bounds hp hk
  have hne : S < S + L := by omega
  have hleft : pagesLeft p (sliceStart p S k) (S + L) = pageCount p L S - k := by
    rw [← pagesLeft_start] at hk ⊢
    simp only [pagesLeft, hpage, hlt, hne, if_true] at hk ⊢
    omega
  rw [closedPlan_eq_slices hp, slicesFrom, slicesFrom, hpage, hleft, pagesLeft_start, ← List.map_drop,
    List.drop_range', Nat.mul_one]

/-- The segment with its payload index counted from `o`. -/
def PageSegment.rebase (o : Word) (g : PageSegment) : PageSegment :=
  { g with sourceOffset := g.sourceOffset - o }

/-- A range cut at the start of a slice has the same slices from there on, with payload indexes counted from the
cut. -/
theorem pageSlice_rebase {p S a E q : Nat} (hp : 0 < p) (hS : S ≤ a) (hcut : a = S ∨ a / p * p = a)
    (hq : a / p ≤ q) : pageSlice p a E q = (pageSlice p S E q).rebase (BitVec.ofNat 16 (a - S)) := by
  obtain ⟨-, hend, -⟩ := page_bounds hp a
  have hstart : max S (q * p) = max a (q * p) := by
    have hmul : a / p * p ≤ q * p := Nat.mul_le_mul_right p hq
    omega
  have hoffset : max a (q * p) - S = (max a (q * p) - a) + (a - S) := by omega
  simp only [pageSlice, PageSegment.rebase, hstart, hoffset, BitVec.ofNat_add, BitVec.add_sub_cancel]

theorem slicesFrom_rebase {p S a E : Nat} (hp : 0 < p) (hS : S ≤ a) (hcut : a = S ∨ a / p * p = a) :
    slicesFrom p a a E = (slicesFrom p S a E).map (PageSegment.rebase (BitVec.ofNat 16 (a - S))) := by
  rw [slicesFrom, slicesFrom, List.map_map]
  refine List.map_congr_left fun q hq => pageSlice_rebase hp hS hcut ?_
  exact (List.mem_range'_1.1 hq).1

/-- The request from where a segment begins, with the rest of the length, ends where the request did, and its plan is
the tail of the plan. -/
theorem closedPlan_resume {p L S k : Nat} {g : PageSegment} (hp : 0 < p) (hS : S < 65536)
    (hr : L = 0 ∨ S + L - 1 ≤ 65535) (hg : (closedPlan p L S)[k]? = some g) :
    g.address.toNat + (L - g.sourceOffset.toNat) = S + L ∧
      closedPlan p (L - g.sourceOffset.toNat) g.address.toNat =
        ((closedPlan p L S).drop k).map (PageSegment.rebase g.sourceOffset) := by
  obtain ⟨hk, rfl⟩ : k < pageCount p L S ∧ closedSegment p L S (k + 1) = g := by
    simpa [closedPlan, List.getElem?_eq_some_iff] using hg
  obtain ⟨haddr, hoff, -⟩ := closedSegment_numbers hp hk hS hr
  obtain ⟨hlo, hhi, -, hcut⟩ := sliceStart_bounds hp hk
  change _ = sliceStart p S k at haddr
  change _ = sliceStart p S k - S at hoff
  have hend : sliceStart p S k + (L - (sliceStart p S k - S)) = S + L := by omega
  have hword : (closedSegment p L S (k + 1)).sourceOffset = BitVec.ofNat 16 (sliceStart p S k - S) := by
    rw [← hoff, BitVec.ofNat_toNat, BitVec.setWidth_eq]
  rw [haddr, hoff, hword, closedPlan_drop hp hk, closedPlan_eq_slices hp, hend]
  exact ⟨rfl, slicesFrom_rebase hp hlo hcut⟩

/-- Settles O29: the resumed request is in range and its plan no longer than the old one, so PLAN ends `ok`. -/
theorem resumedPlanIsTailOfOldPlan : Obligations.ResumedPlanIsTailOfOldPlan := by
  intro s t u cap p L S k g ho h hok hg hu
  obtain ⟨hp, hr, w, hw, -⟩ := execPlan_ok ho h hok
  obtain ⟨-, -, hS⟩ := planOperands_bounds ho
  rw [(execPlan_ok_seg ho h hok).1] at hg ⊢
  obtain ⟨hend, htail⟩ := closedPlan_resume hp hS hr hg
  have hrange : L - g.sourceOffset.toNat = 0 ∨
      g.address.toNat + (L - g.sourceOffset.toNat) - 1 ≤ 65535 := by omega
  have hcount : pageCount p (L - g.sourceOffset.toNat) g.address.toNat ≤ cap := by
    have hcap := (planRun_planned hp hw).1
    rw [← closedPlan_length, htail, List.length_map, List.length_drop, closedPlan_length]
    omega
  obtain ⟨w', hw', hexec⟩ := execPlan_fits hu ((rangeOverflow_false_iff _ _).2 hrange) hp hcount
  exact ⟨_, hexec, rfl, (planRun_planned hp hw').2.trans htail⟩

end Sys2Proof.Machine
end

section
/-! PROOFS. Reset and hazards: an operand register without a value refuses the operation, and an idle block waits
(70_reset_and_hazards R241, R242). -/

namespace Sys2Proof.Machine

/-! ## Unwritten operands (70_reset_and_hazards R242) -/

theorem planOperands_eq_none {s : State} : planOperands s = none ↔
    s.written.pageSize = false ∨ s.written.startOffset = false ∨ s.written.totalLength = false := by
  simp only [planOperands, ite_eq_right_iff, reduceCtorEq, imp_false, Bool.not_eq_true, Bool.and_eq_false_iff]
  tauto

theorem cfgWritten_and_payload_eq_false {s : State} : (s.cfg.written s.written && s.written.payload) = false ↔
    ¬ CfgHoldsValues s.written s.cfg ∨ s.written.payload = false := by
  rw [Bool.and_eq_false_iff, ← cfgWritten_iff, Bool.not_eq_true]

theorem execExecute_unwritten {s : State}
    (h : ¬ CfgHoldsValues s.written s.cfg ∨ s.written.payload = false) :
    execExecute s = .refused .unwrittenOperand := by
  rw [execExecute_refused_iff]
  simp [executeRefusal, cfgWritten_and_payload_eq_false.2 h]

/-- WRITE_OP asks for the operands of its PLAN first, then for the registers that EXECUTE reads (log 12). -/
theorem execWriteOp_unwritten {cap : Nat} {s : State}
    (h : planOperands s = none ∨ ¬ CfgHoldsValues s.written s.cfg ∨ s.written.payload = false) :
    execWriteOp cap s = .refused .unwrittenOperand := by
  cases ho : planOperands s with
  | none => simp [execWriteOp, ho]
  | some o =>
    have hunwritten := h.resolve_left (by simp [ho])
    simp [execWriteOp, ho, cfgWritten_and_payload_eq_false.2 hunwritten]

/-- Settles O30: each operation looks at what it reads before anything else. -/
theorem unwrittenOperandIsRefused : Obligations.UnwrittenOperandIsRefused := by
  refine fun s cap => ⟨fun h => execPlan_unwritten (planOperands_eq_none.2 h), execExecute_unwritten,
    fun h => execWriteOp_unwritten ?_⟩
  rw [planOperands_eq_none]
  rcases h with hcfg | hstart | hlength | hpay
  · exact .inr (.inl hcfg)
  · exact .inl (.inr (.inl hstart))
  · exact .inl (.inr (.inr hlength))
  · exact .inr (.inr hpay)

/-! ## An idle block (70_reset_and_hazards R241) -/

/-- Settles O10: the waiting step answers its own state, so every run does. -/
theorem idleBlockWaitsForHost : Obligations.IdleBlockWaitsForHost :=
  fun _ hidle hhost => runSteps_fixed (step_idle_waiting hidle hhost)

end Sys2Proof.Machine
end
